-- ==== Sys2Proof/Word.lean ====
section
/-! DEFINITION. The words of the gopos codec block and nothing about what they mean: a byte (rule R7), a 32-bit transfer on
`REQ` or `PIN` (rules R70, R74) and a 16-bit element count (`LEN_W`, rule R6). -/

namespace Sys2Proof

/-- A byte: bit 7 is the most significant, bit 0 the least (rule R7). -/
abbrev Byte := BitVec 8

/-- One 32-bit transfer: a request word (rule R70) or a pixel word (rule R74). -/
abbrev Word := BitVec 32

/-- An element count, `LEN_W` = 16 bits, `0..65535`, unsigned (rules R6, R73). -/
abbrev Count := BitVec 16

end Sys2Proof
end

