-- ==== Sys2Proof/Config.lean ====
section
/-! DEFINITION. What the spec leaves as a named parameter (`PACK_ORDER`, rule R6) and the one value it leaves open (the contents
of `TABLE` while reset is in progress, rule R21). The values the hardware takes for every parameter of rules R5 and R6 stand in
Machine/Params.lean. -/

namespace Sys2Proof

/-- `PACK_ORDER` (rule R6): where the first pixel of a full group of eight stands in its byte. `msbFirst` is rule R153,
`lsbFirst` is rule R157. -/
inductive PackOrder
  /-- First pixel at bit 7, last at bit 0 (rule R153). -/
  | msbFirst
  /-- First pixel at bit 0, last at bit 7 (rule R157). -/
  | lsbFirst
  deriving DecidableEq, Repr

/-- FREE VALUE (log entry 3). The byte an entry of `TABLE` holds while reset is in progress: "unspecified while reset is in
progress" (rule R21). It has no body, so nothing can be proved of its value. Its argument is a fresh number for each entry of
each reset. -/
opaque Config.freeTableByte : Nat → Byte

end Sys2Proof
end

