-- ==== Sys2Proof/Machine/Params.lean ====
section
/-! DEFINITION. The constants of rule R5 and the decided parameters of rule R6, each under the spec's own name, so that a
correction is one edit (item U9 of 93_implementation_defined.md). -/

namespace Sys2Proof.Machine.Params

/-- `TABLE_SIZE` (rule R5). Irreducible, so that no unification runs the 256 rounds of TGEN's loop. -/
@[irreducible] def tableSize : Nat := 256

/-- `POLY`, the CRC-8 polynomial (rule R5). -/
def poly : Byte := 0x07#8

/-- `CRC_INIT`, the start of the running value (rule R5). -/
def crcInit : Byte := 0x00#8

/-- `SOF1` (rule R5). -/
def sof1 : Byte := 0x51#8

/-- `SOF2` (rule R5). -/
def sof2 : Byte := 0x78#8

/-- `RESERVED`, frame byte 3 (rules R5, R79). -/
def reserved : Byte := 0x00#8

/-- `RESERVED2`, frame byte 5 (rules R5, R79). -/
def reserved2 : Byte := 0x00#8

/-- `EOF` (rule R5). -/
def eof : Byte := 0xFF#8

/-- `MAX_PAYLOAD`, the longest payload of a frame in bytes (rule R5). -/
abbrev maxPayload : Nat := 255

/-- `FRAME_OVERHEAD`, the bytes of a frame that are not payload (rule R5, conflict C3). -/
def frameOverhead : Nat := 8

/-- `CMD_RETRACT` (rules R5, R77). -/
def cmdRetract : Byte := 0xA0#8

/-- `CMD_FEED` (rules R5, R77). -/
def cmdFeed : Byte := 0xA1#8

/-- `CMD_DRAW` (rules R5, R77). -/
def cmdDraw : Byte := 0xA2#8

/-- `CMD_QUALITY` (rules R5, R77). -/
def cmdQuality : Byte := 0xA4#8

/-- `CMD_ENERGY` (rules R5, R77). -/
def cmdEnergy : Byte := 0xAF#8

/-- `CMD_MODE` (rules R5, R77). -/
def cmdMode : Byte := 0xBE#8

/-- `THRESH_RGB`: a painted pixel has each colour channel below this (rules R5, R151). -/
abbrev threshRgb : Nat := 128

/-- `THRESH_A`: a painted pixel has alpha above this (rules R5, R151). -/
abbrev threshA : Nat := 128

/-- `PIXELS_PER_BYTE` (rule R5), in the width of the counter `NB` (rule R24). -/
def pixelsPerByte : BitVec 4 := 8#4

/-- `ACC_INIT`, a packed byte before its first pixel (rules R6, R154). -/
def accInit : Byte := 0x00#8

/-- `PACK_ORDER` takes the value `MSB_FIRST` on this hardware (rule R6, conflict C1). -/
def packOrder : PackOrder := .msbFirst

end Sys2Proof.Machine.Params
end

