-- ==== Sys2Proof/Syntax.lean ====
section
/-! DEFINITION. The operations of the block: one constructor per row of spec/opcode_table.json. Every field of the request word
that the row leaves free is an operand, the ignored ones too, so that no bit of a request is lost. -/

namespace Sys2Proof

/-- An operation of the block (rules R71, R77, R80). `cmd` is request bits 23:16, `len` request bits 15:0 (rule R70). -/
inductive Instr
  /-- TGEN, rule R102: generate `TABLE`. Both fields are ignored. -/
  | tgen (cmd : Byte) (len : Count)
  /-- CRC8, rule R103: checksum of `len` bytes of `DIN`. `cmd` is ignored. -/
  | crc8 (cmd : Byte) (len : Count)
  /-- FENC, rule R123: encode one frame with a command byte that is none of the six. -/
  | fenc (cmd : Byte) (len : Count)
  /-- PACK, rule R156: pack one row of `len` pixels of `PIN`. `cmd` is ignored. -/
  | pack (cmd : Byte) (len : Count)
  /-- RETRACT, rule R126: FENC with command byte 0xA0. -/
  | retract (len : Count)
  /-- FEED, rule R127: FENC with command byte 0xA1. -/
  | feed (len : Count)
  /-- DRAW, rule R128: FENC with command byte 0xA2. -/
  | draw (len : Count)
  /-- QUALITY, rule R129: FENC with command byte 0xA4. -/
  | quality (len : Count)
  /-- ENERGY, rule R130: FENC with command byte 0xAF. -/
  | energy (len : Count)
  /-- MODE, rule R131: FENC with command byte 0xBE. -/
  | mode (len : Count)
  deriving DecidableEq, Repr

end Sys2Proof
end

