-- ==== Sys2Proof/WellFormed.lean ====
section
/-! DEFINITION. Which terms of `Instr` stand for a request word. There is one check: a generic FENC does not carry a command byte
that has a row of its own, since a decoder takes the row with the larger mask first (rule R80). Every other field is free
(rules R72, R73, R125). -/

namespace Sys2Proof

/-- The six defined command bytes (rule R77). -/
def definedCommands : List Byte :=
  [Machine.Params.cmdRetract, Machine.Params.cmdFeed, Machine.Params.cmdDraw,
   Machine.Params.cmdQuality, Machine.Params.cmdEnergy, Machine.Params.cmdMode]

/-- A term that some request word decodes to (rule R80). -/
def Instr.wellFormed : Instr → Bool
  | .tgen _ _ => true
  | .crc8 _ _ => true
  | .fenc cmd _ => !definedCommands.contains cmd
  | .pack _ _ => true
  | .retract _ => true
  | .feed _ => true
  | .draw _ => true
  | .quality _ => true
  | .energy _ => true
  | .mode _ => true

end Sys2Proof
end

