-- ==== Sys2Proof/Decode.lean ====
section
/-! DEFINITION. The request word (format REQ, rule R70): its fields, the decoder, total on all 2^32 words, which rejects by name
(rules R71, R72, R80), and the encoder. A request is one 32-bit transfer and has no byte order (rules R55, R70). -/

namespace Sys2Proof

/-- `op` = `REQ[31:29]` (rule R70). -/
def reqOp (w : Word) : BitVec 3 := w.extractLsb' 29 3

/-- `rsv` = `REQ[28:24]` (rule R70). -/
def reqRsv (w : Word) : BitVec 5 := w.extractLsb' 24 5

/-- `cmd` = `REQ[23:16]`, an unsigned byte (rules R70, R73). -/
def reqCmd (w : Word) : Byte := w.extractLsb' 16 8

/-- `len` = `REQ[15:0]`, an unsigned count (rules R70, R73). -/
def reqLen (w : Word) : Count := w.extractLsb' 0 16

/-- The request word with these fields and `rsv` = 0 (rule R70). -/
def requestWord (op : BitVec 3) (cmd : Byte) (len : Count) : Word :=
  op ++ 0#5 ++ cmd ++ len

/-- Why a word is no request (rule R72). -/
inductive DecodeError
  /-- `rsv` is not 0. -/
  | reservedBits
  /-- `op` is 4, 5, 6 or 7. -/
  | reservedOp
  deriving DecidableEq, Repr

/-- The row of an `op = 2` word: the row with the larger mask first, the FENC row for any other `cmd` (rule R80). -/
def decodeFrame (cmd : Byte) (len : Count) : Instr :=
  if cmd = Machine.Params.cmdRetract then .retract len
  else if cmd = Machine.Params.cmdFeed then .feed len
  else if cmd = Machine.Params.cmdDraw then .draw len
  else if cmd = Machine.Params.cmdQuality then .quality len
  else if cmd = Machine.Params.cmdEnergy then .energy len
  else if cmd = Machine.Params.cmdMode then .mode len
  else .fenc cmd len

/-- The operation a request word selects (rules R71, R72, R80). -/
def decode (w : Word) : Except DecodeError Instr :=
  if reqRsv w ≠ 0#5 then .error .reservedBits
  else if reqOp w = 0#3 then .ok (.tgen (reqCmd w) (reqLen w))
  else if reqOp w = 1#3 then .ok (.crc8 (reqCmd w) (reqLen w))
  else if reqOp w = 2#3 then .ok (decodeFrame (reqCmd w) (reqLen w))
  else if reqOp w = 3#3 then .ok (.pack (reqCmd w) (reqLen w))
  else .error .reservedOp

/-- The request word of an operation (rules R70, R71, R77). -/
def encode : Instr → Word
  | .tgen cmd len => requestWord 0#3 cmd len
  | .crc8 cmd len => requestWord 1#3 cmd len
  | .fenc cmd len => requestWord 2#3 cmd len
  | .pack cmd len => requestWord 3#3 cmd len
  | .retract len => requestWord 2#3 Machine.Params.cmdRetract len
  | .feed len => requestWord 2#3 Machine.Params.cmdFeed len
  | .draw len => requestWord 2#3 Machine.Params.cmdDraw len
  | .quality len => requestWord 2#3 Machine.Params.cmdQuality len
  | .energy len => requestWord 2#3 Machine.Params.cmdEnergy len
  | .mode len => requestWord 2#3 Machine.Params.cmdMode len

/-- The word that `nbits` bits with value `w` stand for on `REQ`; the bits above `nbits` are 0. -/
def tableWord (nbits w : Nat) : Word := BitVec.ofNat 32 (w % 2 ^ nbits)

/-- The decoder, asked in the numbering of spec/opcode_table.json. -/
def decodeTableWord (nbits w : Nat) : Option Instr :=
  (decode (tableWord nbits w)).toOption

end Sys2Proof
end

