-- ==== Sys2Proof/Machine/Memory.lean ====
section
/-! DEFINITION. The `TABLE` space (rules R21, R50, R51): the constant `T` of rule R101, and a table held as the list of the
entries that differ from `T`, in one canonical form. `TABLE` is the block's only addressed space, 256 bytes, every index backed. -/

namespace Sys2Proof.Machine

/-- One round of rule R101: shift left, and XOR the polynomial in when the bit shifted out was 1. -/
def tableShift (v : Byte) : Byte :=
  if v.msb then (v <<< 1) ^^^ Params.poly else v <<< 1

/-- `n` rounds of rule R101. -/
def tableShifts : Nat → Byte → Byte
  | 0, v => v
  | n + 1, v => tableShifts n (tableShift v)

/-- The table constant `T(i)` (rule R101): eight rounds from `i`. -/
def tableEntry (i : Byte) : Byte := tableShifts 8 i

/-- The table space as data: the entries that do not hold their constant `T(i)`, addresses strictly rising. -/
abbrev Memory := List Host.Cell

/-- What an unlisted address reads as: the contents after reset, `T(i)` (rules R21, R35, log entry 1). -/
def Memory.unlisted (a : Nat) : Byte := tableEntry (BitVec.ofNat 8 a)

/-- `MemRead(TABLE, a, 1)` (rule R9). -/
def Memory.read : Memory → Nat → Byte
  | [], a => Memory.unlisted a
  | (k, v) :: m, a => if k = a then v else Memory.read m a

/-- The table without an entry for address `a`. -/
def Memory.erase (m : Memory) (a : Nat) : Memory := m.filter fun c => c.1 ≠ a

/-- The table with an entry for address `a`, which had none, put in its place. -/
def Memory.insert : Memory → Nat → Byte → Memory
  | [], a, v => [(a, v)]
  | (k, w) :: m, a, v => if a < k then (a, v) :: (k, w) :: m else (k, w) :: Memory.insert m a v

/-- `MemWrite(TABLE, a, 1, v)` (rule R9), in canonical form. -/
def Memory.write (m : Memory) (a : Nat) (v : Byte) : Memory :=
  if v = Memory.unlisted a then Memory.erase m a else Memory.insert (Memory.erase m a) a v

/-- The addresses rise strictly. -/
def Memory.rising : Memory → Bool
  | [] => true
  | (k, _) :: m => m.all (fun c => decide (k < c.1)) && Memory.rising m

/-- The canonical form: addresses inside the space and strictly rising, and no entry equal to what an unlisted address reads as. -/
def Memory.wf (m : Memory) : Bool :=
  Memory.rising m && m.all fun c => decide (c.1 < Params.tableSize) && decide (c.2 ≠ Memory.unlisted c.1)

/-- The table with `f i` written to entry `i`, for `i` from 0 to `n - 1` in increasing order. -/
def Memory.writeUpTo (f : Nat → Byte) : Nat → Memory → Memory
  | 0, m => m
  | n + 1, m => Memory.write (Memory.writeUpTo f n m) n (f n)

/-- The loop of TGEN (rule R102): entry `i` is written with `T(i)`, for `i = 0 .. 255` in increasing order. -/
def Memory.generate (m : Memory) : Memory :=
  Memory.writeUpTo (fun i => tableEntry (BitVec.ofNat 8 i)) Params.tableSize m

/-- A table none of whose entries is specified: the free value `draw` (rule R21, log entry 3). -/
def Memory.unspecified (draw : Nat) (m : Memory) : Memory :=
  Memory.writeUpTo (fun i => Config.freeTableByte (draw * Params.tableSize + i)) Params.tableSize m

end Sys2Proof.Machine
end

