-- ==== Sys2Proof/Machine/State.lean ====
section
/-! DEFINITION. The state of the block as plain data: the persistent state (rules R21, R30, R31), the working registers (rules R22
to R28), the ports and streams (rules R34, R50) and what the host has requested (rules R12, R31, R210); the state after reset
(rule R35); and the ways a step can stop. -/

namespace Sys2Proof.Machine

/-- `PH`, the phase of an FENC operation (rule R28). -/
inductive Phase
  | header
  | payload
  | checksum
  | eof
  | done
  deriving DecidableEq, Repr

/-- A response on `RSP` (rule R83). -/
inductive Rsp
  /-- Code 0: the operation completed. -/
  | ok
  /-- Code 1: FENC with `len > 255`. -/
  | invalidPayloadSize
  /-- Code 2: an illegal request word. -/
  | illegalOperation
  deriving DecidableEq, Repr

/-- The two faults of the block (rule R180). They end an operation, never the machine (rule R185). -/
inductive BlockFault
  /-- Rule R181. -/
  | invalidPayloadSize
  /-- Rule R182. -/
  | illegalOperation
  deriving DecidableEq, Repr

/-- One transfer on `DOUT`: a byte and its `last` mark (rule R34). -/
structure OutByte where
  byte : Byte
  last : Bool
  deriving DecidableEq, Repr

/-- One request of the host with the input sequence it carries (rules R12, R52, R53, R229). -/
structure Request where
  /-- The word on `REQ` (rule R70). -/
  word : Word
  /-- The bytes for `DIN`, first byte first (rule R52). -/
  din : List Byte
  /-- The pixel words for `PIN`, column 0 first (rule R53). -/
  pin : List Word
  deriving DecidableEq, Repr

/-- The state of the block and of the host's side of its ports. -/
structure State where
  /-- `READY` (rule R31). -/
  ready : Bool
  /-- `TABLE` (rule R21). -/
  table : Memory
  /-- `ERR_PSIZE` (rule R30). -/
  errPsize : Bool
  /-- `ERR_OP` (rule R30). -/
  errOp : Bool
  /-- `CRC` (rule R22). -/
  crc : Byte
  /-- `ACC` (rule R23). -/
  acc : Byte
  /-- `NB` (rule R24). -/
  nb : BitVec 4
  /-- `X` (rule R25). -/
  x : Count
  /-- `IDX` (rule R25). -/
  idx : Count
  /-- `CMD` (rule R27). -/
  cmd : Byte
  /-- `LEN` (rule R27). -/
  len : Count
  /-- `PH` (rule R28). -/
  ph : Phase
  /-- The requests offered on `REQ` and not yet accepted, oldest first (rules R12, R31, R34). -/
  pending : List Request
  /-- What the host has on `DIN` for the request accepted last and the block has not consumed (rules R34, R52, R184). -/
  din : List Byte
  /-- What the host has on `PIN` for the request accepted last and the block has not consumed (rules R34, R53, R184). -/
  pin : List Word
  /-- Every byte that has appeared on `DOUT` since reset, in order (rules R34, R54, R59, log entry 10). -/
  dout : List OutByte
  /-- Every response given on `RSP` since reset, in order (rules R34, R59). -/
  rsp : List Rsp
  /-- The host requests a reset on `rst` (rules R34, R210). -/
  rst : Bool
  /-- The model's own: how many resets have drawn free values for `TABLE` (log entry 3). -/
  draws : Nat
  deriving DecidableEq, Repr

/-- A step of the block never stops with a fault: its two faults are responses, after which the block goes on (rules R184, R185),
and nothing in it is stuck or a hang (rule R231). Nobody raises a `Fault`; there is none. -/
inductive Fault
  deriving DecidableEq, Repr

/-- Why a step has no next state. -/
inductive Refusal
  /-- Raised by an arm of `exec` whose operation has no meaning yet. Safe: nothing can be proved of it. -/
  | notModelled (mnemonic : String)
  /-- Raised by `step` when a reset is requested while an FENC operation is between its first and last byte: the spec gives the
  case no meaning and asks a model not to admit it (rule R211, item U7, log entry 8). Safe: the model stops. -/
  | resetMidOperation
  deriving DecidableEq, Repr

/-- The state after reset completes (rule R35). The host has requested nothing yet (log entry 2). -/
def State.reset : State where
  ready := true
  table := []
  errPsize := false
  errOp := false
  crc := 0x00#8
  acc := 0x00#8
  nb := 0#4
  x := 0#16
  idx := 0#16
  cmd := 0x00#8
  len := 0#16
  ph := .done
  pending := []
  din := []
  pin := []
  dout := []
  rsp := []
  rst := false
  draws := 0

end Sys2Proof.Machine
end

