-- ==== Sys2Proof/Machine/Flags.lean ====
section
/-! DEFINITION. The flags: what a fault sets (rules R30, R180), the response codes (rule R83) and the `STATUS` register
(rule R32). The block has no condition codes: no operation sets any other flag and none reads a flag (rules R30, R32). -/

namespace Sys2Proof.Machine

/-- The fault sets `ERR_PSIZE` (rules R30, R180). -/
def BlockFault.setsPsize : BlockFault → Bool
  | .invalidPayloadSize => true
  | .illegalOperation => false

/-- The fault sets `ERR_OP` (rules R30, R180). -/
def BlockFault.setsOp : BlockFault → Bool
  | .invalidPayloadSize => false
  | .illegalOperation => true

/-- The response that reports a fault (rules R83, R180). -/
def BlockFault.response : BlockFault → Rsp
  | .invalidPayloadSize => .invalidPayloadSize
  | .illegalOperation => .illegalOperation

/-- The code a response has on `RSP` (rule R83). Code 3 is never produced. -/
def Rsp.code : Rsp → BitVec 2
  | .ok => 0#2
  | .invalidPayloadSize => 1#2
  | .illegalOperation => 2#2

/-- What the `STATUS` port shows: `READY` at bit 0, `ERR_PSIZE` at bit 1, `ERR_OP` at bit 2, bits 7:3 zero (rule R32). -/
def State.status (s : State) : Byte :=
  0#5 ++ BitVec.ofBool s.errOp ++ BitVec.ofBool s.errPsize ++ BitVec.ofBool s.ready

end Sys2Proof.Machine
end

