-- ==== Sys2Proof/Machine/Operands.lean ====
section
/-! DEFINITION. The operand forms: the input sequence a request carries on `DIN` or `PIN` (rules R52, R53, R73), the pixel word
(format PIX, rule R74) and the bit of a pixel (rule R151). -/

namespace Sys2Proof.Machine

/-- The request the host offers next: the oldest not yet accepted. With none offered, an empty one. -/
def State.offered (s : State) : Request := s.pending.headD { word := 0#32, din := [], pin := [] }

/-- The host has supplied the `len` bytes the request announces on `DIN` (rules R34, R231, log entry 5). -/
def State.hasDin (len : Count) (s : State) : Bool := decide (len.toNat ≤ s.offered.din.length)

/-- The host has supplied the `len` pixels the request announces on `PIN` (rules R34, R231, log entry 5). -/
def State.hasPin (len : Count) (s : State) : Bool := decide (len.toNat ≤ s.offered.pin.length)

/-- The input bytes `p[0 .. len-1]` of the request (rules R52, R73). -/
def State.dinOperand (len : Count) (s : State) : List Byte := s.offered.din.take len.toNat

/-- The pixel words `px[0 .. len-1]` of the request (rules R53, R73). -/
def State.pinOperand (len : Count) (s : State) : List Word := s.offered.pin.take len.toNat

/-- A pixel: four unsigned 8-bit channels, not premultiplied (rules R6, R74). -/
structure Pixel where
  r : Byte
  g : Byte
  b : Byte
  a : Byte
  deriving DecidableEq, Repr

/-- The pixel a word on `PIN` carries (rule R74). -/
def pixelOfWord (w : Word) : Pixel where
  r := w.extractLsb' 24 8
  g := w.extractLsb' 16 8
  b := w.extractLsb' 8 8
  a := w.extractLsb' 0 8

/-- The word that carries a pixel on `PIN` (rule R74). -/
def pixelWord (p : Pixel) : Word := p.r ++ p.g ++ p.b ++ p.a

/-- The bit of a pixel: 1 when it is dark in every colour and opaque (rule R151). -/
def painted (p : Pixel) : Bool :=
  decide (p.r.toNat < Params.threshRgb) && decide (p.g.toNat < Params.threshRgb) &&
    decide (p.b.toNat < Params.threshRgb) && decide (p.a.toNat > Params.threshA)

/-- The bit of the pixel on a `PIN` word. -/
def paintedWord (w : Word) : Bool := painted (pixelOfWord w)

/-- `ceil(width/8)`, the bytes of a packed row (rules R8, R57, R154). -/
def rowByteCount (width : Nat) : Nat := (width + 7) / 8

end Sys2Proof.Machine
end

