-- ==== Sys2Proof/Machine/Ops.lean ====
section
/-! DEFINITION. The named operations every meaning is made of: accepting a request, consuming its input, emitting on `DOUT`,
responding on `RSP`, raising a fault (the block's only exception entry) and the reset sequence. -/

namespace Sys2Proof.Machine

/-- `TABLE[i]` (rules R9, R51): the index is a byte, so the read is always in range. -/
def State.tableRead (s : State) (i : Byte) : Byte := s.table.read i.toNat

/-- Accepts the offered request: it leaves the queue, its input stands on `DIN` and `PIN` in place of what an earlier request
left there, and its fields are latched in `CMD` and `LEN` (rules R27, R31, R229, log entries 4 and 6). -/
def State.accept (cmd : Byte) (len : Count) (s : State) : State :=
  { s with pending := s.pending.tail, din := s.offered.din, pin := s.offered.pin, cmd := cmd, len := len }

/-- Consumes `len` bytes from `DIN` (rules R34, R52). -/
def State.consumeDin (len : Count) (s : State) : State := { s with din := s.din.drop len.toNat }

/-- Consumes `len` pixels from `PIN` (rules R34, R53). -/
def State.consumePin (len : Count) (s : State) : State := { s with pin := s.pin.drop len.toNat }

/-- One operation's output as transfers on `DOUT`: `last` is 1 on the final byte (rule R34). -/
def markLast : List Byte → List OutByte
  | [] => []
  | [b] => [{ byte := b, last := true }]
  | b :: c :: bs => { byte := b, last := false } :: markLast (c :: bs)

/-- Emits one operation's whole output, in order (rules R9, R54, R59). -/
def State.emit (bytes : List Byte) (s : State) : State := { s with dout := s.dout ++ markLast bytes }

/-- `respond`: the response to the request (rules R9, R59, R83). -/
def State.respond (r : Rsp) (s : State) : State := { s with rsp := s.rsp ++ [r] }

/-- Writes `TABLE`. -/
def State.setTable (m : Memory) (s : State) : State := { s with table := m }

/-- Leaves `CRC`, `IDX` as a loop over `len` input bytes leaves them (rules R22, R25, log entry 12). -/
def State.setChecksum (crc : Byte) (len : Count) (s : State) : State := { s with crc := crc, idx := len }

/-- Writes `PH` (rule R28). -/
def State.setPhase (p : Phase) (s : State) : State := { s with ph := p }

/-- Leaves `ACC`, `NB`, `X` as a loop over `len` pixels leaves them (rules R23, R24, R25, log entries 11 and 12). -/
def State.setPacker (acc : Byte) (nb : BitVec 4) (len : Count) (s : State) : State :=
  { s with acc := acc, nb := nb, x := len }

/-- Fault entry, after the request was accepted (rule R184): nothing is emitted or consumed, the fault's sticky flag is set, its
code is the response, and nothing else changes. Nothing is saved and there is no handler. There is no return from a fault and
nothing to restore: the block takes the next request at once (rule R185). -/
def State.raise (f : BlockFault) (s : State) : State :=
  { s with errPsize := f.setsPsize || s.errPsize, errOp := f.setsOp || s.errOp, rsp := s.rsp ++ [f.response] }

/-- What an illegal request word does: it is accepted and raises `IllegalOperation` (rules R72, R182, R186). -/
def State.takeIllegal (w : Word) (s : State) : State :=
  (s.accept (reqCmd w) (reqLen w)).raise .illegalOperation

/-- Step 1 of the reset sequence (rule R210): the flags are cleared, every request not yet accepted is discarded with its input,
`DOUT` and `RSP` are idle (log entry 7). The host's reset request is taken. `TABLE` is unspecified until step 2 (rule R21). -/
def State.assertReset (s : State) : State :=
  { s with
    ready := false, errPsize := false, errOp := false
    pending := [], din := [], pin := [], dout := [], rsp := []
    table := Memory.unspecified s.draws s.table
    rst := false, draws := s.draws + 1 }

/-- Steps 2 to 4 of the reset sequence (rule R210): TGEN, the working registers of rule R35, `READY`. A request offered
meanwhile waits (rule R31). -/
def State.finishReset (s : State) : State :=
  { s with
    table := Memory.generate s.table
    crc := 0x00#8, acc := 0x00#8, nb := 0#4, x := 0#16, idx := 0#16, cmd := 0x00#8, len := 0#16, ph := .done
    ready := true }

/-- A reset request on `rst`: it is taken between operations (rules R210, R211). -/
def State.takeReset (s : State) : Host.Outcome State Fault Refusal :=
  if s.ph = .done then .next s.assertReset else .refused .resetMidOperation

/-- A request with the input its `len` field announces, every byte and pixel 0. -/
def zeroInputRequest (w : Word) : Request where
  word := w
  din := if reqOp w = 1#3 ∨ reqOp w = 2#3 then List.replicate (reqLen w).toNat 0#8 else []
  pin := if reqOp w = 3#3 then List.replicate (reqLen w).toNat 0#32 else []

end Sys2Proof.Machine
end

