-- ==== Sys2Proof/Machine/Crc.lean ====
section
/-! DEFINITION. The CRC-8 unit: the per-byte step (rule R104), the checksum of a byte sequence, and the operations TGEN
(rule R102) and CRC8 (rule R103). -/

namespace Sys2Proof.Machine

/-- The per-byte step, `CRC <- TABLE[(CRC XOR d) & 0xFF]` (rule R104). -/
def crcStep (table : Memory) (crc d : Byte) : Byte := table.read (crc ^^^ d).toNat

/-- The running value `crc` after the bytes `p`, first byte first (rule R103). -/
def crcFrom (table : Memory) : Byte → List Byte → Byte
  | crc, [] => crc
  | crc, d :: p => crcFrom table (crcStep table crc d) p

/-- The checksum of a byte sequence: the final running value, with no final XOR (rule R103). -/
def checksum (table : Memory) (p : List Byte) : Byte := crcFrom table Params.crcInit p

/-- TGEN (rule R102). -/
def execTgen (cmd : Byte) (len : Count) (s : State) : Host.Outcome State Fault Refusal :=
  .next (((s.accept cmd len).setTable s.table.generate).respond .ok)

/-- CRC8 (rule R103). Until the host has supplied the bytes it announced, the request waits (log entry 5). -/
def execCrc8 (cmd : Byte) (len : Count) (s : State) : Host.Outcome State Fault Refusal :=
  if s.hasDin len then
    let k := checksum s.table (s.dinOperand len)
    .next (((((s.accept cmd len).consumeDin len).setChecksum k len).emit [k]).respond .ok)
  else .next s

end Sys2Proof.Machine
end

