-- ==== Sys2Proof/Machine/Frame.lean ====
section
/-! DEFINITION. The frame encoder: the wire frame (rules R63, R75, R121), the encoding of one frame (rule R123) as one shared
operation, and the operation FENC with the six commands that are FENC with the command byte fixed (rules R126 to R131). -/

namespace Sys2Proof.Machine

/-- The frame of command byte `cmd`, length byte `n` and payload `p` with checksum byte `k` (rules R63, R121). -/
def frameBytes (cmd n : Byte) (p : List Byte) (k : Byte) : List Byte :=
  [Params.sof1, Params.sof2, cmd, Params.reserved, n, Params.reserved2] ++ p ++ [k, Params.eof]

/-- FENC with command byte `cmd` (rule R123). The length is checked first, before any byte is read or emitted (rule R181). Until
the host has supplied the payload it announced, the request waits (log entry 5). -/
def encodeFrame (cmd : Byte) (len : Count) (s : State) : Host.Outcome State Fault Refusal :=
  if Params.maxPayload < len.toNat then .next ((s.accept cmd len).raise .invalidPayloadSize)
  else if s.hasDin len then
    let p := s.dinOperand len
    let k := checksum s.table p
    .next ((((((s.accept cmd len).consumeDin len).setChecksum k len).emit
      (frameBytes cmd (len.setWidth 8) p k)).setPhase .done).respond .ok)
  else .next s

/-- FENC (rule R123). -/
def execFenc (cmd : Byte) (len : Count) (s : State) : Host.Outcome State Fault Refusal :=
  encodeFrame cmd len s

/-- RETRACT (rule R126). -/
def execRetract (len : Count) (s : State) : Host.Outcome State Fault Refusal :=
  encodeFrame Params.cmdRetract len s

/-- FEED (rule R127). The count and value of the payload are not checked (rule R125). -/
def execFeed (len : Count) (s : State) : Host.Outcome State Fault Refusal :=
  encodeFrame Params.cmdFeed len s

/-- DRAW (rule R128). -/
def execDraw (len : Count) (s : State) : Host.Outcome State Fault Refusal :=
  encodeFrame Params.cmdDraw len s

/-- QUALITY (rule R129). The count and value of the payload are not checked (rule R125). -/
def execQuality (len : Count) (s : State) : Host.Outcome State Fault Refusal :=
  encodeFrame Params.cmdQuality len s

/-- ENERGY (rule R130). The count and value of the payload are not checked (rule R125). -/
def execEnergy (len : Count) (s : State) : Host.Outcome State Fault Refusal :=
  encodeFrame Params.cmdEnergy len s

/-- MODE (rule R131). The count and value of the payload are not checked (rule R125). -/
def execMode (len : Count) (s : State) : Host.Outcome State Fault Refusal :=
  encodeFrame Params.cmdMode len s

end Sys2Proof.Machine
end

