-- ==== Sys2Proof/Machine/Pack.lean ====
section
/-! DEFINITION. The row packer: the packing step for both values of `PACK_ORDER` (rules R153, R157), the loop over a row
(rules R154, R155) and the operation PACK (rule R156). -/

namespace Sys2Proof.Machine

/-- The packing step: the accumulator after the bit `t` of the next pixel (rule R153 for `MSB_FIRST`, rule R157 for
`LSB_FIRST`). -/
def packBit : PackOrder → Byte → Bool → Byte
  | .msbFirst, acc, t => (acc <<< 1) ||| (BitVec.ofBool t).setWidth 8
  | .lsbFirst, acc, t => (acc >>> 1) ||| ((BitVec.ofBool t).setWidth 8 <<< 7)

/-- `ACC`, `NB` and the bytes emitted so far of a PACK. -/
structure PackRun where
  acc : Byte
  nb : BitVec 4
  out : List Byte
  deriving DecidableEq, Repr

/-- Emits the packed byte `b`: each time a byte has been emitted `ACC` and `NB` are cleared (rules R23, R24). -/
def PackRun.emitByte (b : Byte) (run : PackRun) : PackRun :=
  { acc := Params.accInit, nb := 0#4, out := run.out ++ [b] }

/-- The body of PACK's loop for a pixel whose bit is `t`: when `NB` reaches 8 the byte is emitted (rules R154, R156). -/
def packPixel (o : PackOrder) (run : PackRun) (t : Bool) : PackRun :=
  if run.nb + 1#4 = Params.pixelsPerByte then run.emitByte (packBit o run.acc t)
  else { acc := packBit o run.acc t, nb := run.nb + 1#4, out := run.out }

/-- PACK's loop over the bits of a row, column 0 first (rules R152, R156). -/
def packLoop (o : PackOrder) (bits : List Bool) : PackRun :=
  bits.foldl (packPixel o) { acc := Params.accInit, nb := 0#4, out := [] }

/-- The end of a row: a partly filled byte is emitted as it stands (rules R154, R155), and `ACC`, `NB` are cleared as after any
emitted byte (rules R23, R24, log entry 11). -/
def PackRun.finish (run : PackRun) : PackRun :=
  if run.nb = 0#4 then run else run.emitByte run.acc

/-- The Bitmap Row of a row of pixel words (rules R150, R156). -/
def packRow (o : PackOrder) (px : List Word) : List Byte := (packLoop o (px.map paintedWord)).finish.out

/-- PACK (rule R156), with the value `PACK_ORDER` has on this hardware. Until the host has supplied the pixels it announced, the
request waits (log entry 5). -/
def execPack (cmd : Byte) (len : Count) (s : State) : Host.Outcome State Fault Refusal :=
  if s.hasPin len then
    let run := (packLoop Params.packOrder ((s.pinOperand len).map paintedWord)).finish
    .next (((((s.accept cmd len).consumePin len).setPacker run.acc run.nb len).emit run.out).respond .ok)
  else .next s

end Sys2Proof.Machine
end

