-- ==== Sys2Proof/Machine/Dispatch.lean ====
section
/-! DEFINITION. One arm per operation: each is one direct call of its meaning. -/

namespace Sys2Proof.Machine

/-- The operation `i` performed for the request the host offers (rules R10, R71, R77). -/
def exec (i : Instr) (s : State) : Host.Outcome State Fault Refusal :=
  match i with
  | .tgen cmd len => Sys2Proof.Machine.execTgen cmd len s
  | .crc8 cmd len => Sys2Proof.Machine.execCrc8 cmd len s
  | .fenc cmd len => Sys2Proof.Machine.execFenc cmd len s
  | .pack cmd len => Sys2Proof.Machine.execPack cmd len s
  | .retract len => Sys2Proof.Machine.execRetract len s
  | .feed len => Sys2Proof.Machine.execFeed len s
  | .draw len => Sys2Proof.Machine.execDraw len s
  | .quality len => Sys2Proof.Machine.execQuality len s
  | .energy len => Sys2Proof.Machine.execEnergy len s
  | .mode len => Sys2Proof.Machine.execMode len s

end Sys2Proof.Machine
end

