-- ==== Sys2Proof/Machine/Step.lean ====
section
/-! DEFINITION. One step of the block (rules R10, R31, R210, R212), and the placing of a request where the next step takes it. -/

namespace Sys2Proof.Machine

/-- One step. A reset request is taken first; while `READY` is 0 the reset sequence goes on and no request is accepted (rules
R31, R210). Then the oldest offered request is performed: an illegal word raises `IllegalOperation` (rule R182), any other is
the operation it selects. With no request offered the block is idle (rule R12). -/
def step (s : State) : Host.Outcome State Fault Refusal :=
  if s.rst then s.takeReset
  else if s.ready then
    match s.pending with
    | [] => .next s
    | r :: _ =>
      match decode r.word with
      | .ok i => exec i s
      | .error _ => .next (s.takeIllegal r.word)
  else .next s.finishReset

/-- `s` with the request word `w` offered first, with the input it announces (all zero), to a block that is ready and not being
reset: the next step performs it (log entry 9). -/
def State.withFetchWord (s : State) (nbits w : Nat) : State :=
  { s with rst := false, ready := true, pending := zeroInputRequest (tableWord nbits w) :: s.pending }

end Sys2Proof.Machine
end

