-- ==== Sys2Proof/Machine/Pseudo.lean ====
section
/-! DEFINITION. The requests a host issues, in the spec's assembler form (rule R81), and the pseudo-operations, shorthand the host
expands into requests (rule R82). None is an operation of the block. A sequence longer than 65535 elements is not expressible
(rule R81): its count would be cut to 16 bits. -/

namespace Sys2Proof.Machine

/-- `TGEN` (rule R81). -/
def requestTgen : Request where
  word := requestWord 0#3 0#8 0#16
  din := []
  pin := []

/-- `CRC8 [p]` (rule R81). -/
def requestCrc8 (p : List Byte) : Request where
  word := requestWord 1#3 0#8 (BitVec.ofNat 16 p.length)
  din := p
  pin := []

/-- `FENC cmd, [p]` (rule R81). -/
def requestFenc (cmd : Byte) (p : List Byte) : Request where
  word := requestWord 2#3 cmd (BitVec.ofNat 16 p.length)
  din := p
  pin := []

/-- `PACK W, [px]` (rule R81). -/
def requestPack (px : List Word) : Request where
  word := requestWord 3#3 0#8 (BitVec.ofNat 16 px.length)
  din := []
  pin := px

/-- `RETRACT [p]` (rule R82). -/
def requestRetract (p : List Byte) : Request := requestFenc Params.cmdRetract p

/-- `FEED s` (rule R82). -/
def requestFeed (s : Byte) : Request := requestFenc Params.cmdFeed [s]

/-- `DRAW [row]` (rule R82). -/
def requestDraw (row : List Byte) : Request := requestFenc Params.cmdDraw row

/-- `QUALITY q` (rule R82). -/
def requestQuality (q : Byte) : Request := requestFenc Params.cmdQuality [q]

/-- `ENERGY e` (rule R82). -/
def requestEnergy (e : Byte) : Request := requestFenc Params.cmdEnergy [e]

/-- `MODE m` (rule R82). -/
def requestMode (m : Byte) : Request := requestFenc Params.cmdMode [m]

/-- `BENC W, H, raster`: one PACK per row, rows in increasing order (rules R82, R158). -/
def benc (raster : List (List Word)) : List Request := raster.map requestPack

/-- `DRAWROW W, [px]`: PACK, then DRAW of the bytes that PACK emits, which the host carries back (rules R82, R160). -/
def drawRow (px : List Word) : List Request := [requestPack px, requestDraw (packRow Params.packOrder px)]

/-- `CONNECTCFG e, q, m` (rules R82, R223). -/
def connectCfg (e q m : Byte) : List Request := [requestEnergy e, requestQuality q, requestMode m]

/-- `PRINTRASTER W, H, raster` (rules R82, R221, R222). The 4 ms pauses are the host's and no rule depends on them
(rule R230). -/
def printRaster (raster : List (List Word)) : List Request :=
  raster.flatMap (fun px => drawRow px ++ [requestFeed 0x00#8]) ++ [requestFeed 0x50#8]

end Sys2Proof.Machine
end

