-- ==== Sys2Proof/Safety.lean ====
section
/-! DEFINITION. The terms claims are stated in: the invariant of the block, which requests are legal and supplied with their
input, the response each request calls for, the frame operations, and a state with its working registers forgotten. -/

namespace Sys2Proof.Machine

/-- The block takes requests: it is not being reset and `READY` is 1 (rule R31). -/
def State.Accepting (s : State) : Prop := s.rst = false ∧ s.ready = true

/-- What holds of the block between operations: the table is in canonical form, `PH` is `DONE` (rule R28), `NB` is at most 8
(rule R24), and once `READY` is 1 every entry of `TABLE` holds its constant (rule R21). -/
def State.Inv (s : State) : Prop :=
  s.table.wf = true ∧ s.ph = .done ∧ s.nb.toNat ≤ 8 ∧
    (s.ready = true → ∀ i : Byte, s.tableRead i = tableEntry i)

/-- The word is a legal request (rules R72, R182). -/
def LegalWord (w : Word) : Prop := (reqOp w).toNat < 4 ∧ reqRsv w = 0#5

/-- A legal word that asks for a frame with more than 255 bytes of payload (rules R181, R186). -/
def OversizeWord (w : Word) : Prop := LegalWord w ∧ reqOp w = 2#3 ∧ 255 < (reqLen w).toNat

/-- The host has supplied with the request every element its `len` field announces (rules R34, R231). -/
def Request.Supplied (r : Request) : Prop :=
  (reqOp r.word = 1#3 ∨ reqOp r.word = 2#3 → (reqLen r.word).toNat ≤ r.din.length) ∧
    (reqOp r.word = 3#3 → (reqLen r.word).toNat ≤ r.pin.length)

/-- A request that breaks no duty the block enforces: a legal word and no oversize payload (rules R72, R220). -/
def Request.Dutiful (r : Request) : Prop := LegalWord r.word ∧ ¬ OversizeWord r.word

/-- The command byte and payload length of an operation that encodes a frame: FENC and the six commands (rules R77, R123). -/
def frameOf : Instr → Option (Byte × Count)
  | .tgen _ _ => none
  | .crc8 _ _ => none
  | .fenc cmd len => some (cmd, len)
  | .pack _ _ => none
  | .retract len => some (0xA0#8, len)
  | .feed len => some (0xA1#8, len)
  | .draw len => some (0xA2#8, len)
  | .quality len => some (0xA4#8, len)
  | .energy len => some (0xAF#8, len)
  | .mode len => some (0xBE#8, len)

/-- The state with every working register forgotten (rules R20, R29). -/
def State.withoutWorking (s : State) : State :=
  { s with crc := 0#8, acc := 0#8, nb := 0#4, x := 0#16, idx := 0#16, cmd := 0#8, len := 0#16, ph := .done }

end Sys2Proof.Machine
end

