-- ==== Sys2Proof/Certificates/Slice0/Obligations.lean ====
section
/-! DEFINITION. The statements for the provers, in the order of the spec's files. Where a statement says what an operation leaves
of the working registers it says so by name; elsewhere it compares states by `withoutWorking`, since the spec calls those
registers unobservable (rule R29). -/

open Sys2Proof Sys2Proof.Machine

/-! ## Encoding (30_encoding.md) -/

/-- Words written out from rules R70 and R71 and from vectors K16, F13, F14, X1 to X8 decode to what the spec says. -/
def Obligations.SpecWordsDecode : Prop :=
  decode 0x00FFFFFF#32 = .ok (.tgen 0xFF#8 0xFFFF#16) ∧
  decode 0x20AB0001#32 = .ok (.crc8 0xAB#8 1#16) ∧
  decode 0x40000003#32 = .ok (.fenc 0x00#8 3#16) ∧
  decode 0x60FF0008#32 = .ok (.pack 0xFF#8 8#16) ∧
  decode 0x40A00001#32 = .ok (.retract 1#16) ∧
  decode 0x40A10001#32 = .ok (.feed 1#16) ∧
  decode 0x40A200FF#32 = .ok (.draw 255#16) ∧
  decode 0x40A40001#32 = .ok (.quality 1#16) ∧
  decode 0x40AF0001#32 = .ok (.energy 1#16) ∧
  decode 0x40BE0001#32 = .ok (.mode 1#16) ∧
  decode 0x80000000#32 = .error .reservedOp ∧
  decode 0xE0000000#32 = .error .reservedOp ∧
  decode 0x41A10001#32 = .error .reservedBits ∧
  decode 0x41000100#32 = .error .reservedBits

/-- Decoding the word of any well-formed operation gives it back, every field at every value. -/
def Obligations.DecodeOfEncode : Prop :=
  ∀ i : Instr, i.wellFormed = true → decode (encode i) = .ok i

/-- A word that decodes is the word of the operation it decodes to, and that operation is well formed: no bit is dropped and no
two words stand for one operation. -/
def Obligations.EncodeOfDecode : Prop :=
  ∀ (w : Word) (i : Instr), decode w = .ok i → encode i = w ∧ i.wellFormed = true

/-- The requests of the assembler form and of the pseudo-operations decode to the operations they stand for and bring the input
they announce (rules R81, R82). -/
def Obligations.AssemblerRequestsDecode : Prop :=
  decode requestTgen.word = .ok (.tgen 0#8 0#16) ∧
  (∀ p : List Byte, p.length ≤ 65535 →
    decode (requestCrc8 p).word = .ok (.crc8 0#8 (BitVec.ofNat 16 p.length)) ∧
    decode (requestRetract p).word = .ok (.retract (BitVec.ofNat 16 p.length)) ∧
    decode (requestDraw p).word = .ok (.draw (BitVec.ofNat 16 p.length)) ∧
    (∀ cmd : Byte, (∃ i, decode (requestFenc cmd p).word = .ok i ∧ frameOf i = some (cmd, BitVec.ofNat 16 p.length)) ∧
      (requestFenc cmd p).Supplied) ∧
    (requestCrc8 p).Supplied) ∧
  (∀ px : List Word, px.length ≤ 65535 →
    decode (requestPack px).word = .ok (.pack 0#8 (BitVec.ofNat 16 px.length)) ∧ (requestPack px).Supplied) ∧
  ∀ b : Byte,
    decode (requestFeed b).word = .ok (.feed 1#16) ∧ decode (requestQuality b).word = .ok (.quality 1#16) ∧
    decode (requestEnergy b).word = .ok (.energy 1#16) ∧ decode (requestMode b).word = .ok (.mode 1#16)

/-! ## A step and its request (00_scope.md, 60_exceptions.md) -/

/-- When the block takes requests and the word of the oldest one decodes to an operation, a step is that operation performed on
the same state. Nothing is added around it: accepting the request is part of the operation. -/
def Obligations.StepRunsDecodedRequest : Prop :=
  ∀ (s : State) (r : Request) (rs : List Request) (i : Instr),
    s.Accepting → s.pending = r :: rs → decode r.word = .ok i → step s = exec i s

/-- With no request offered the block stays as it is: the model's choice (log entry 9), which no rule of the spec states. -/
def Obligations.IdleWithoutRequest : Prop :=
  ∀ s : State, s.Accepting → s.pending = [] → step s = .next s

/-- `IllegalOperation` is raised for a word with `op` in 4 to 7 or `rsv` not 0, and for no other; every other word selects an
operation (rule R182). It emits and consumes nothing (rule R184). That `DIN` and `PIN` hold the input this request brought, in
place of what an earlier one left there, is the model's reading (log entry 4). -/
def Obligations.IllegalOperationRaisedExactly : Prop :=
  ∀ (s : State) (r : Request) (rs : List Request), s.Accepting → s.pending = r :: rs →
    (4 ≤ (reqOp r.word).toNat ∨ reqRsv r.word ≠ 0#5 →
      ∃ t, step s = .next t ∧
        t.withoutWorking = ({ s with
          pending := rs, din := r.din, pin := r.pin, errOp := true,
          rsp := s.rsp ++ [.illegalOperation] } : State).withoutWorking) ∧
    (¬ (4 ≤ (reqOp r.word).toNat ∨ reqRsv r.word ≠ 0#5) →
      (∃ i, decode r.word = .ok i) ∧
      ∀ t, step s = .next t → t.errOp = s.errOp ∧ t.rsp ≠ s.rsp ++ [.illegalOperation])

/-- Rule R186, with the codes of rule R83. One request raises at most one fault: the request word is checked first, whatever
`len` holds; only a legal FENC request is then checked for `len > 255`. -/
def Obligations.FaultPriority : Prop :=
  ∀ (s : State) (r : Request) (rs : List Request), s.Accepting → s.pending = r :: rs →
    (¬ LegalWord r.word → ∃ t, step s = .next t ∧ t.pending = rs ∧
      t.rsp.map Rsp.code = s.rsp.map Rsp.code ++ [2#2] ∧ t.errOp = true ∧ t.errPsize = s.errPsize) ∧
    (LegalWord r.word → reqOp r.word = 2#3 → 255 < (reqLen r.word).toNat → ∃ t, step s = .next t ∧ t.pending = rs ∧
      t.rsp.map Rsp.code = s.rsp.map Rsp.code ++ [1#2] ∧ t.errPsize = true ∧ t.errOp = s.errOp) ∧
    (LegalWord r.word → ¬ (reqOp r.word = 2#3 ∧ 255 < (reqLen r.word).toNat) → r.Supplied →
      ∃ t, step s = .next t ∧ t.pending = rs ∧
      t.rsp.map Rsp.code = s.rsp.map Rsp.code ++ [0#2] ∧ t.errPsize = s.errPsize ∧ t.errOp = s.errOp)

/-- An operation that encodes a frame raises `InvalidPayloadSize` exactly when `len > 255`, on `len` alone, whatever input is
there (rule R181): nothing is emitted, nothing consumed, the flag set (rule R184). That `DIN` and `PIN` hold the input this
request brought, in place of what an earlier one left there, is the model's reading (log entry 4). -/
def Obligations.OversizePayloadFaults : Prop :=
  ∀ (i : Instr) (cmd : Byte) (len : Count) (s : State), frameOf i = some (cmd, len) →
    (255 < len.toNat → ∃ t, exec i s = .next t ∧
      t.withoutWorking = ({ s with
        pending := s.pending.tail, din := s.offered.din, pin := s.offered.pin,
        errPsize := true, rsp := s.rsp ++ [.invalidPayloadSize] } : State).withoutWorking) ∧
    (len.toNat ≤ 255 → ∀ t, exec i s = .next t →
      t.errPsize = s.errPsize ∧ t.rsp ≠ s.rsp ++ [.invalidPayloadSize])

/-- Until the host has supplied the input a request announces, the operation waits and nothing changes. This is the model's
reading (log entry 5): rule R34 has a transfer happen when both sides are willing. -/
def Obligations.ShortInputWaits : Prop :=
  ∀ (s : State) (len : Count),
    (s.offered.din.length < len.toNat → ∀ cmd : Byte, exec (.crc8 cmd len) s = .next s) ∧
    (s.offered.pin.length < len.toNat → ∀ cmd : Byte, exec (.pack cmd len) s = .next s) ∧
    (s.offered.din.length < len.toNat → len.toNat ≤ 255 → ∀ (i : Instr) (cmd : Byte),
      frameOf i = some (cmd, len) → exec i s = .next s)

/-! ## CRC-8 unit (40_crc8.md) -/

/-- TGEN completes in every state: every entry of `TABLE` holds its constant, no input is consumed, nothing is emitted, the
response is `OK` (rule R102). That `DIN` and `PIN` hold the input this request brought, in place of what an earlier one left
there, is the model's reading (log entry 4). -/
def Obligations.TgenFillsTable : Prop :=
  ∀ (cmd : Byte) (len : Count) (s : State), ∃ t, exec (.tgen cmd len) s = .next t ∧
    (∀ i : Byte, t.tableRead i = tableEntry i) ∧
    t.withoutWorking = ({ s with
      table := t.table, pending := s.pending.tail, din := s.offered.din, pin := s.offered.pin,
      rsp := s.rsp ++ [.ok] } : State).withoutWorking

/-- A TGEN requested after reset has no observable effect on `TABLE` (rules R21, R102). -/
def Obligations.TgenAfterResetKeepsTable : Prop :=
  ∀ (cmd : Byte) (len : Count) (s t : State), s.Inv → s.ready = true → exec (.tgen cmd len) s = .next t →
    t.table = s.table

/-- The constant is the remainder of `i(x) * x^8` by `x^8 + x^2 + x + 1` over GF(2): `i` followed by eight zeros differs from
`T(i)` by a multiple of the polynomial (rule R101). -/
def Obligations.TableEntryIsRemainder : Prop :=
  ∀ i : Byte, ∃ q : Byte,
    (i ++ 0#8 : BitVec 16) = (0#8 ++ tableEntry i : BitVec 16) ^^^
      (List.range 8).foldl (fun v k => if q.getLsbD k then v ^^^ (0x107#16 <<< k) else v) 0#16

/-- The table is linear over XOR and its 256 values are pairwise distinct (rule R105). -/
def Obligations.TableLinearAndInjective : Prop :=
  (∀ a b : Byte, tableEntry (a ^^^ b) = tableEntry a ^^^ tableEntry b) ∧
  ∀ a b : Byte, tableEntry a = tableEntry b → a = b

/-- CRC8 completes whenever the announced bytes are there: it emits one byte, the running value that starts at 0 and goes to
`TABLE[CRC XOR d]` with each byte `d` in order, consumes the bytes and responds `OK` (rules R103, R104). That `PIN` and the rest of
`DIN` hold the input this request brought, in place of what an earlier one left there, is the model's reading (log entry 4). -/
def Obligations.Crc8EmitsChecksum : Prop :=
  ∀ (cmd : Byte) (len : Count) (s : State), len.toNat ≤ s.offered.din.length →
    ∃ t, exec (.crc8 cmd len) s = .next t ∧
      t.withoutWorking = ({ s with
        pending := s.pending.tail, din := s.offered.din.drop len.toNat, pin := s.offered.pin,
        dout := s.dout ++ [{
          byte := (s.offered.din.take len.toNat).foldl (fun crc d => s.tableRead (crc ^^^ d)) 0x00#8
          last := true }],
        rsp := s.rsp ++ [.ok] } : State).withoutWorking

/-- Over the constant table, appending the checksum drives the running value to 0, and a leading zero byte changes nothing
(95_test_vectors.md section 4; rule R103). -/
def Obligations.ChecksumResidue : Prop :=
  ∀ m : Memory, (∀ i : Byte, m.read i.toNat = tableEntry i) → ∀ p : List Byte,
    checksum m (p ++ [checksum m p]) = 0x00#8 ∧ checksum m (0x00#8 :: p) = checksum m p

/-- What TGEN and CRC8 leave unchanged. -/
def Obligations.CrcUnitLeavesTheRest : Prop :=
  ∀ (cmd : Byte) (len : Count) (s t : State),
    (exec (.tgen cmd len) s = .next t →
      (∀ a : Nat, 256 ≤ a → t.table.read a = s.table.read a) ∧
      t.dout = s.dout ∧ t.crc = s.crc ∧ t.idx = s.idx ∧ t.acc = s.acc ∧ t.nb = s.nb ∧ t.x = s.x ∧ t.ph = s.ph ∧
      t.ready = s.ready ∧ t.errPsize = s.errPsize ∧ t.errOp = s.errOp ∧ t.rst = s.rst ∧ t.draws = s.draws) ∧
    (exec (.crc8 cmd len) s = .next t →
      (∀ a : Nat, t.table.read a = s.table.read a) ∧ t.acc = s.acc ∧ t.nb = s.nb ∧ t.x = s.x ∧ t.ph = s.ph ∧
      t.ready = s.ready ∧ t.errPsize = s.errPsize ∧ t.errOp = s.errOp ∧ t.rst = s.rst ∧ t.draws = s.draws)

/-! ## Frame encoder (41_frame_encoder.md) -/

/-- FENC and each of the six commands are FENC with the command byte of their row (rules R80, R126 to R131). -/
def Obligations.CommandsAreFenc : Prop :=
  ∀ (i : Instr) (cmd : Byte) (len : Count) (s : State), frameOf i = some (cmd, len) →
    exec i s = exec (.fenc cmd len) s

/-- With a payload `p` of `n` bytes, `n` at most 255 and supplied, an operation that encodes a frame completes and emits
`51 78 c 00 n 00 p[0] .. p[n-1] k FF`, where `k` is the checksum of the payload alone (rules R63, R121, R123, R124). That `PIN`
and the rest of `DIN` hold the input this request brought, in place of what an earlier one left there, is the model's reading (log
entry 4). -/
def Obligations.FrameLayout : Prop :=
  ∀ (i : Instr) (cmd : Byte) (len : Count) (s : State), frameOf i = some (cmd, len) →
    len.toNat ≤ 255 → len.toNat ≤ s.offered.din.length →
    ∃ (t : State) (p : List Byte) (k : Byte), exec i s = .next t ∧
      p = s.offered.din.take len.toNat ∧
      k = p.foldl (fun crc d => s.tableRead (crc ^^^ d)) 0x00#8 ∧
      t.withoutWorking = ({ s with
        pending := s.pending.tail, din := s.offered.din.drop len.toNat, pin := s.offered.pin,
        dout := s.dout ++
          ([0x51#8, 0x78#8, cmd, 0x00#8, BitVec.ofNat 8 p.length, 0x00#8] ++ p ++ [k]).map
            (fun b => { byte := b, last := false }) ++
          [{ byte := 0xFF#8, last := true }],
        rsp := s.rsp ++ [.ok] } : State).withoutWorking

/-- Rules R76, R79 and R122. Whatever operation of the frame encoder emits something emits one frame of 8 to 263 bytes whose
length byte, at offset 4, tells its end, and whose bytes at offsets 3 and 5 are 0. -/
def Obligations.FrameLengthFromByteFour : Prop :=
  ∀ (i : Instr) (cmd : Byte) (len : Count) (s t : State), frameOf i = some (cmd, len) → exec i s = .next t →
    t.dout ≠ s.dout →
    ∃ f : List Byte, t.dout.map OutByte.byte = s.dout.map OutByte.byte ++ f ∧
      f.length = len.toNat + 8 ∧ 8 ≤ f.length ∧ f.length ≤ 263 ∧
      (∃ b : Byte, f[4]? = some b ∧ f.length = b.toNat + 8) ∧
      f[3]? = some 0x00#8 ∧ f[5]? = some 0x00#8 ∧ f[f.length - 1]? = some 0xFF#8

/-- The checksum byte of a frame is the byte CRC8 emits for the payload, whatever the command (rules R123, R124). -/
def Obligations.FrameChecksumIsCrc8OfPayload : Prop :=
  ∀ (i : Instr) (cmd c : Byte) (len : Count) (s u : State), frameOf i = some (cmd, len) →
    len.toNat ≤ 255 → len.toNat ≤ s.offered.din.length →
    u.offered.din.take len.toNat = s.offered.din.take len.toNat →
    len.toNat ≤ u.offered.din.length → (∀ a : Byte, u.tableRead a = s.tableRead a) →
    ∃ (t v : State) (k : Byte), exec i s = .next t ∧ exec (.crc8 c len) u = .next v ∧
      v.dout = u.dout ++ [{ byte := k, last := true }] ∧
      t.dout[s.dout.length + 6 + len.toNat]? = some { byte := k, last := false }

/-- FEED, QUALITY, ENERGY and MODE with one payload byte emit the nine bytes their rules give, once `TABLE` is complete
(rules R127, R129, R130, R131). -/
def Obligations.OneByteCommandFrames : Prop :=
  ∀ (s : State) (b : Byte) (bs : List Byte), s.Inv → s.ready = true → s.offered.din = b :: bs →
    (∃ t, exec (.feed 1#16) s = .next t ∧ t.dout.map OutByte.byte = s.dout.map OutByte.byte ++
      [0x51#8, 0x78#8, 0xA1#8, 0x00#8, 0x01#8, 0x00#8, b, tableEntry b, 0xFF#8] ∧ t.rsp = s.rsp ++ [.ok]) ∧
    (∃ t, exec (.quality 1#16) s = .next t ∧ t.dout.map OutByte.byte = s.dout.map OutByte.byte ++
      [0x51#8, 0x78#8, 0xA4#8, 0x00#8, 0x01#8, 0x00#8, b, tableEntry b, 0xFF#8] ∧ t.rsp = s.rsp ++ [.ok]) ∧
    (∃ t, exec (.energy 1#16) s = .next t ∧ t.dout.map OutByte.byte = s.dout.map OutByte.byte ++
      [0x51#8, 0x78#8, 0xAF#8, 0x00#8, 0x01#8, 0x00#8, b, tableEntry b, 0xFF#8] ∧ t.rsp = s.rsp ++ [.ok]) ∧
    ∃ t, exec (.mode 1#16) s = .next t ∧ t.dout.map OutByte.byte = s.dout.map OutByte.byte ++
      [0x51#8, 0x78#8, 0xBE#8, 0x00#8, 0x01#8, 0x00#8, b, tableEntry b, 0xFF#8] ∧ t.rsp = s.rsp ++ [.ok]

/-- What FENC and the six commands leave unchanged; a faulted one leaves `DOUT`, `CRC`, `IDX` and `PH` too. -/
def Obligations.FrameEncoderLeavesTheRest : Prop :=
  ∀ (i : Instr) (cmd : Byte) (len : Count) (s t : State), frameOf i = some (cmd, len) → exec i s = .next t →
    (∀ a : Nat, t.table.read a = s.table.read a) ∧ t.acc = s.acc ∧ t.nb = s.nb ∧ t.x = s.x ∧
    t.ready = s.ready ∧ t.errOp = s.errOp ∧ t.rst = s.rst ∧ t.draws = s.draws ∧
    (len.toNat ≤ 255 → t.errPsize = s.errPsize) ∧
    (255 < len.toNat → t.dout = s.dout ∧ t.crc = s.crc ∧ t.idx = s.idx ∧ t.ph = s.ph)

/-! ## Row packer (42_row_packer.md) -/

/-- Rule R151, on the pixel word of rule R74: the bit of a pixel by the strict comparisons, and in bit terms. -/
def Obligations.PixelThreshold : Prop :=
  ∀ r g b a : Byte,
    (painted { r := r, g := g, b := b, a := a } = true ↔
      r.toNat < 128 ∧ g.toNat < 128 ∧ b.toNat < 128 ∧ 128 < a.toNat) ∧
    painted { r := r, g := g, b := b, a := a } =
      (!r.getLsbD 7 && !g.getLsbD 7 && !b.getLsbD 7 && a.getLsbD 7 && decide (a.extractLsb' 0 7 ≠ 0#7)) ∧
    pixelOfWord (r ++ g ++ b ++ a) = { r := r, g := g, b := b, a := a }

/-- PACK completes whenever the announced pixels are there and emits the row whose byte `j` is the closed form: of its `k` pixels,
pixel `8j + i` is at bit `k - 1 - i`, and the bits from `k` up are 0 (rule R159, which the spec derives from rules R151, R153, R154
and R155). That `DIN` and the rest of `PIN` hold the input this request brought, in place of what an earlier one left there, is the
model's reading (log entry 4). -/
def Obligations.PackClosedForm : Prop :=
  ∀ (cmd : Byte) (len : Count) (s : State), len.toNat ≤ s.offered.pin.length →
    ∃ (t : State) (row : List Byte), exec (.pack cmd len) s = .next t ∧
      t.dout.map OutByte.byte = s.dout.map OutByte.byte ++ row ∧
      t.withoutWorking = ({ s with
        pending := s.pending.tail, din := s.offered.din, pin := s.offered.pin.drop len.toNat,
        dout := t.dout, rsp := s.rsp ++ [.ok] } : State).withoutWorking ∧
      row.length = (len.toNat + 7) / 8 ∧
      ∀ (j k : Nat) (b : Byte), row[j]? = some b → k = min 8 (len.toNat - 8 * j) →
        b.toNat = ((List.range k).map fun i =>
          (if paintedWord (s.offered.pin.getD (8 * j + i) 0#32) then 1 else 0) * 2 ^ (k - 1 - i)).sum ∧
        (∀ i < k, b.getLsbD (k - 1 - i) = paintedWord (s.offered.pin.getD (8 * j + i) 0#32)) ∧
        ∀ n, k ≤ n → b.getLsbD n = false

/-- Each time a byte has been emitted, a partly filled last one too, `ACC` is written to 0x00 and `NB` to 0 (rules R23, R24; log
entry 11), so a PACK that completes leaves both 0, whatever the width. It leaves `X` at the width (log entry 12) and its fields in
`CMD` and `LEN` (rule R27). -/
def Obligations.PackClearsAccumulator : Prop :=
  ∀ (cmd : Byte) (len : Count) (s : State), len.toNat ≤ s.offered.pin.length →
    ∃ t, exec (.pack cmd len) s = .next t ∧ t.acc = 0x00#8 ∧ t.nb = 0#4 ∧ t.x = len ∧ t.cmd = cmd ∧ t.len = len

/-- The closed form under the other value of `PACK_ORDER` (rule R157): of the `k` pixels of byte `j`, pixel `8j + i` is at bit
`8 - k + i`, and the bits below are 0. -/
def Obligations.PackLsbFirstClosedForm : Prop :=
  ∀ px : List Word, (packRow .lsbFirst px).length = (px.length + 7) / 8 ∧
    ∀ (j k : Nat) (b : Byte), (packRow .lsbFirst px)[j]? = some b → k = min 8 (px.length - 8 * j) →
      (∀ i < k, b.getLsbD (8 - k + i) = paintedWord (px.getD (8 * j + i) 0#32)) ∧
      ∀ n < 8 - k, b.getLsbD n = false

/-- A row with no painted pixel packs to zero bytes, and a row of full groups with every pixel painted to 0xFF bytes
(95_test_vectors.md section 4). -/
def Obligations.PackUniformRows : Prop :=
  ∀ (cmd : Byte) (len : Count) (s : State), len.toNat ≤ s.offered.pin.length →
    ∃ t, exec (.pack cmd len) s = .next t ∧
      ((∀ w ∈ s.offered.pin.take len.toNat, paintedWord w = false) →
        t.dout.map OutByte.byte = s.dout.map OutByte.byte ++ List.replicate ((len.toNat + 7) / 8) 0x00#8) ∧
      (len.toNat % 8 = 0 → (∀ w ∈ s.offered.pin.take len.toNat, paintedWord w = true) →
        t.dout.map OutByte.byte = s.dout.map OutByte.byte ++ List.replicate (len.toNat / 8) 0xFF#8)

/-- The bytes PACK emits for a row of at most 2040 pixels, given to DRAW, come out unchanged as the payload of one frame whose
length byte is `ceil(W/8)` and whose checksum is that of those bytes (rules R128, R160, R232). -/
def Obligations.PackedRowDraws : Prop :=
  ∀ (cmd : Byte) (width : Count) (s t u : State), width.toNat ≤ 2040 → width.toNat ≤ s.offered.pin.length →
    exec (.pack cmd width) s = .next t →
    u.offered.din = (t.dout.drop s.dout.length).map OutByte.byte →
    ∃ v, exec (.draw (BitVec.ofNat 16 ((width.toNat + 7) / 8))) u = .next v ∧
      v.dout.map OutByte.byte = u.dout.map OutByte.byte ++
        ([0x51#8, 0x78#8, 0xA2#8, 0x00#8, BitVec.ofNat 8 ((width.toNat + 7) / 8), 0x00#8] ++ u.offered.din ++
          [checksum u.table u.offered.din, 0xFF#8]) ∧
      v.rsp = u.rsp ++ [.ok]

/-- A DRAW of a row faults exactly when the row is wider than 2040 pixels (rules R128, R232). -/
def Obligations.DrawWidthLimit : Prop :=
  ∀ (width : Count) (s : State), (width.toNat + 7) / 8 ≤ s.offered.din.length →
    ∃ t, exec (.draw (BitVec.ofNat 16 ((width.toNat + 7) / 8))) s = .next t ∧
      (2040 < width.toNat → t.rsp = s.rsp ++ [.invalidPayloadSize] ∧ t.dout = s.dout) ∧
      (width.toNat ≤ 2040 → t.rsp = s.rsp ++ [.ok] ∧ t.dout.length = s.dout.length + (width.toNat + 7) / 8 + 8)

/-- What PACK leaves unchanged. -/
def Obligations.PackLeavesTheRest : Prop :=
  ∀ (cmd : Byte) (len : Count) (s t : State), exec (.pack cmd len) s = .next t →
    (∀ a : Nat, t.table.read a = s.table.read a) ∧ t.crc = s.crc ∧ t.idx = s.idx ∧ t.ph = s.ph ∧
    t.ready = s.ready ∧ t.errPsize = s.errPsize ∧ t.errOp = s.errOp ∧ t.rst = s.rst ∧ t.draws = s.draws

/-! ## State, reset and the whole machine (10_state.md, 20_memory.md, 70_reset_and_hazards.md) -/

/-- Rule R32. The bits of `STATUS`, and its value after reset. -/
def Obligations.StatusBits : Prop :=
  (∀ s : State, s.status.getLsbD 0 = s.ready ∧ s.status.getLsbD 1 = s.errPsize ∧ s.status.getLsbD 2 = s.errOp ∧
    ∀ n, 3 ≤ n → s.status.getLsbD n = false) ∧
  (∀ s : State, s.assertReset.status = 0x00#8) ∧ State.reset.status = 0x01#8

/-- Rule R35. The values after reset completes. -/
def Obligations.StateAfterReset : Prop :=
  (∀ i : Byte, State.reset.tableRead i = tableEntry i) ∧
  State.reset.ready = true ∧ State.reset.errPsize = false ∧ State.reset.errOp = false ∧
  State.reset.status = 0x01#8 ∧ State.reset.crc = 0x00#8 ∧ State.reset.acc = 0x00#8 ∧ State.reset.nb = 0#4 ∧
  State.reset.x = 0#16 ∧ State.reset.idx = 0#16 ∧ State.reset.cmd = 0x00#8 ∧ State.reset.len = 0#16 ∧
  State.reset.ph = .done ∧ State.reset.dout = [] ∧ State.reset.rsp = []

/-- The reset sequence (rule R210). A reset request between operations clears `READY` and the flags, discards what is not yet
accepted and idles the output, and the sequence then ends in the state after reset, whatever came before and whatever `TABLE` held
meanwhile. That a reset takes two steps of the model is its choice (log entry 7), and so is the counter `draws` (log entry 3). -/
def Obligations.ResetSequenceEndsInResetState : Prop :=
  ∀ s : State, s.rst = true → s.ph = .done → s.table.wf = true →
    ∃ t, step s = .next t ∧ t.ready = false ∧ t.errPsize = false ∧ t.errOp = false ∧ t.pending = [] ∧
      t.dout = [] ∧ t.rsp = [] ∧ step t = .next { State.reset with draws := s.draws + 1 }

/-- `READY` is 0 from the assertion of reset until the sequence has finished generating `TABLE`, and 1 from then until the next
reset; while it is 0 no request is accepted, lost or faulted; no operation writes it (rule R31). That one step from there generates
`TABLE` and sets `READY` is the model's choice: a reset takes two steps (log entry 7). -/
def Obligations.ReadyAndWaitingRequests : Prop :=
  (∀ s t : State, s.rst = true → step s = .next t → t.ready = false) ∧
  (∀ s : State, s.rst = false → s.ready = false →
    ∃ t, step s = .next t ∧ t.ready = true ∧ (∀ i : Byte, t.tableRead i = tableEntry i) ∧
      t.pending = s.pending ∧ t.din = s.din ∧ t.pin = s.pin ∧ t.dout = s.dout ∧ t.rsp = s.rsp ∧
      t.errPsize = s.errPsize ∧ t.errOp = s.errOp) ∧
  (∀ (i : Instr) (s t : State), exec i s = .next t → t.ready = s.ready) ∧
  ∀ s t : State, s.Accepting → step s = .next t → t.ready = true

/-- A reset requested while an FENC operation is between its phases is given no meaning: the model refuses it (rule R211, log
entry 8). -/
def Obligations.ResetMidFrameRefused : Prop :=
  ∀ s : State, s.rst = true → s.ph ≠ .done → step s = .refused .resetMidOperation

/-- The invariant of the block holds after reset. -/
def Obligations.InvariantAtReset : Prop := State.reset.Inv

/-- Every step keeps the invariant of the block: the table in canonical form, `PH` at `DONE`, `NB` at most 8, and every entry of
`TABLE` at its constant once `READY` is 1. -/
def Obligations.StepKeepsInvariant : Prop :=
  ∀ s t : State, s.Inv → step s = .next t → t.Inv

/-- Every operation answers a next state in every state, and so does every step from a state that meets the invariant. Where the
input is short that state is the waiting one (log entry 5), and with nothing offered the idle one (log entry 9). With the proviso
of rule R231, that the host supplies the input the request announces, the oldest request is taken from the queue and answered in
this one step; a request that faults needs no input (rule R184). -/
def Obligations.NothingIsStuck : Prop :=
  (∀ (i : Instr) (s : State), ∃ t, exec i s = .next t) ∧ (∀ s : State, s.Inv → ∃ t, step s = .next t) ∧
  ∀ (s : State) (r : Request) (rs : List Request), s.Accepting → s.pending = r :: rs → (r.Dutiful → r.Supplied) →
    ∃ (t : State) (a : Rsp), step s = .next t ∧ t.pending = rs ∧ t.rsp = s.rsp ++ [a]

/-- Rule R30. A step without a reset sets each sticky flag exactly when it responds with that flag's fault, clears neither, and
reads neither: with other flag values the same step happens. Only a reset clears them. -/
def Obligations.FlagsStickyAndNeverRead : Prop :=
  (∀ s t : State, s.rst = false → step s = .next t →
    ∃ p o : Bool,
      (p = true ↔ t.rsp = s.rsp ++ [.invalidPayloadSize]) ∧ (o = true ↔ t.rsp = s.rsp ++ [.illegalOperation]) ∧
      ∀ a b : Bool, step { s with errPsize := a, errOp := b } = .next { t with errPsize := p || a, errOp := o || b }) ∧
  (∀ s t : State, s.rst = true → step s = .next t → t.errPsize = false ∧ t.errOp = false) ∧
  State.reset.errPsize = false ∧ State.reset.errOp = false

/-- The working registers cannot be observed between operations (rule R29): two states that differ in nothing else answer a step,
a reset among them, with two states that differ in nothing else. Where a reset is requested `PH` is `DONE` in both, as it is between
operations (rule R28, the invariant): in the middle of a frame the model refuses a reset (log entry 8). -/
def Obligations.WorkingRegistersUnobservable : Prop :=
  ∀ s u t : State, (s.rst = true → s.ph = .done ∧ u.ph = .done) → s.withoutWorking = u.withoutWorking → step s = .next t →
    ∃ v, step u = .next v ∧ v.withoutWorking = t.withoutWorking

/-- Every operation is a pure function of its request, its input and the table (rule R11): whatever else two states hold, the same
bytes are emitted and the same response given. -/
def Obligations.OperationsArePure : Prop :=
  ∀ (i : Instr) (s u t : State), s.offered = u.offered → (∀ a : Byte, s.tableRead a = u.tableRead a) →
    exec i s = .next t →
    ∃ (v : State) (out : List OutByte) (rs : List Rsp), exec i u = .next v ∧
      t.dout = s.dout ++ out ∧ v.dout = u.dout ++ out ∧ t.rsp = s.rsp ++ rs ∧ v.rsp = u.rsp ++ rs

/-- Output is appended in order, nothing is withdrawn, and each accepted request gets exactly one response, in request order
(rules R54, R59). -/
def Obligations.OutputAndResponsesInOrder : Prop :=
  ∀ s t : State, s.rst = false → step s = .next t →
    (t.pending = s.pending ∧ t.dout = s.dout ∧ t.rsp = s.rsp) ∨
    ∃ (r : Request) (out : List OutByte) (a : Rsp),
      s.pending = r :: t.pending ∧ t.dout = s.dout ++ out ∧ t.rsp = s.rsp ++ [a]

/-- The `last` mark stands on the final byte of one operation's output and on no other (rule R34). -/
def Obligations.LastMarksFinalByte : Prop :=
  ∀ (i : Instr) (s t : State), exec i s = .next t →
    ∃ out : List OutByte, t.dout = s.dout ++ out ∧
      ∀ (k : Nat) (b : OutByte), out[k]? = some b → (b.last = true ↔ k + 1 = out.length)

/-- While every offered request has a legal word and no payload over 255 bytes, no flag is set (rule R220). -/
def Obligations.DutifulHostSeesNoFault : Prop :=
  ∀ s t : State, s.rst = false → (∀ r ∈ s.pending, r.Dutiful) → step s = .next t →
    t.errPsize = s.errPsize ∧ t.errOp = s.errOp ∧ ∀ r ∈ t.pending, r.Dutiful
end

