-- ==== Sys2Proof/Laws/Decode.lean ====
section
/-! SUPPORT. The fields of a request word: what they are in a word put together from its fields, and that a word is put together
from its fields. -/

namespace Sys2Proof

@[simp] theorem reqOp_requestWord (op : BitVec 3) (cmd : Byte) (len : Count) :
    reqOp (requestWord op cmd len) = op := by
  ext i hi
  simp only [reqOp, requestWord, BitVec.getElem_extractLsb', BitVec.getLsbD_append]
  rw [if_neg (by omega), if_neg (by omega), if_neg (by omega), BitVec.getLsbD_eq_getElem (by omega)]
  congr 1; omega

@[simp] theorem reqRsv_requestWord (op : BitVec 3) (cmd : Byte) (len : Count) :
    reqRsv (requestWord op cmd len) = 0#5 := by
  ext i hi
  simp only [reqRsv, requestWord, BitVec.getElem_extractLsb', BitVec.getLsbD_append]
  rw [if_neg (by omega), if_neg (by omega), if_pos (by omega)]
  simp

@[simp] theorem reqCmd_requestWord (op : BitVec 3) (cmd : Byte) (len : Count) :
    reqCmd (requestWord op cmd len) = cmd := by
  ext i hi
  simp only [reqCmd, requestWord, BitVec.getElem_extractLsb', BitVec.getLsbD_append]
  rw [if_neg (by omega), if_pos (by omega), BitVec.getLsbD_eq_getElem (by omega)]
  congr 1; omega

@[simp] theorem reqLen_requestWord (op : BitVec 3) (cmd : Byte) (len : Count) :
    reqLen (requestWord op cmd len) = len := by
  ext i hi
  simp only [reqLen, requestWord, BitVec.getElem_extractLsb', BitVec.getLsbD_append]
  rw [if_pos (by omega), BitVec.getLsbD_eq_getElem (by omega)]
  congr 1; omega

/-- A word whose `rsv` field is 0 is put together from its other fields. -/
theorem requestWord_fields (w : Word) (h : reqRsv w = 0#5) :
    requestWord (reqOp w) (reqCmd w) (reqLen w) = w := by
  have hr : ∀ k < 5, w.getLsbD (24 + k) = false := by
    intro k hk
    have := congrArg (fun v => v.getLsbD k) h
    simpa [reqRsv, hk] using this
  ext i hi
  simp only [requestWord, reqOp, reqCmd, reqLen, ← BitVec.getLsbD_eq_getElem, BitVec.getLsbD_append,
    BitVec.getLsbD_extractLsb']
  split
  · simp_all
  · split
    · have : i - 16 < 8 := by omega
      simp only [this, decide_true, Bool.true_and]
      congr 1; omega
    · split
      · have := hr (i - 16 - 8) (by omega)
        rw [show 24 + (i - 16 - 8) = i by omega] at this
        simp [this]
      · have : i - 16 - 8 - 5 < 3 := by omega
        simp only [this, decide_true, Bool.true_and]
        congr 1; omega

/-- An `op = 2` word decodes to the row of its command byte: what the choice answers, once for all callers. -/
theorem encode_decodeFrame (cmd : Byte) (len : Count) : encode (decodeFrame cmd len) = requestWord 2#3 cmd len := by
  unfold decodeFrame
  repeat' split
  all_goals simp_all only [encode]

end Sys2Proof
end

