-- ==== Sys2Proof/Laws/State.lean ====
section
/-! SUPPORT. What each named update of the state does to each field: one lemma per field per update, so that no later proof
unfolds a record update. -/

namespace Sys2Proof.Machine

variable (s : State)

@[simp] theorem State.accept_table (c : Byte) (n : Count) : (s.accept c n).table = s.table := rfl
@[simp] theorem State.accept_ready (c : Byte) (n : Count) : (s.accept c n).ready = s.ready := rfl
@[simp] theorem State.accept_errPsize (c : Byte) (n : Count) : (s.accept c n).errPsize = s.errPsize := rfl
@[simp] theorem State.accept_errOp (c : Byte) (n : Count) : (s.accept c n).errOp = s.errOp := rfl
@[simp] theorem State.accept_crc (c : Byte) (n : Count) : (s.accept c n).crc = s.crc := rfl
@[simp] theorem State.accept_acc (c : Byte) (n : Count) : (s.accept c n).acc = s.acc := rfl
@[simp] theorem State.accept_nb (c : Byte) (n : Count) : (s.accept c n).nb = s.nb := rfl
@[simp] theorem State.accept_x (c : Byte) (n : Count) : (s.accept c n).x = s.x := rfl
@[simp] theorem State.accept_idx (c : Byte) (n : Count) : (s.accept c n).idx = s.idx := rfl
@[simp] theorem State.accept_cmd (c : Byte) (n : Count) : (s.accept c n).cmd = c := rfl
@[simp] theorem State.accept_len (c : Byte) (n : Count) : (s.accept c n).len = n := rfl
@[simp] theorem State.accept_ph (c : Byte) (n : Count) : (s.accept c n).ph = s.ph := rfl
@[simp] theorem State.accept_pending (c : Byte) (n : Count) : (s.accept c n).pending = s.pending.tail := rfl
@[simp] theorem State.accept_din (c : Byte) (n : Count) : (s.accept c n).din = s.offered.din := rfl
@[simp] theorem State.accept_pin (c : Byte) (n : Count) : (s.accept c n).pin = s.offered.pin := rfl
@[simp] theorem State.accept_dout (c : Byte) (n : Count) : (s.accept c n).dout = s.dout := rfl
@[simp] theorem State.accept_rsp (c : Byte) (n : Count) : (s.accept c n).rsp = s.rsp := rfl
@[simp] theorem State.accept_rst (c : Byte) (n : Count) : (s.accept c n).rst = s.rst := rfl
@[simp] theorem State.accept_draws (c : Byte) (n : Count) : (s.accept c n).draws = s.draws := rfl

@[simp] theorem State.consumeDin_table (n : Count) : (s.consumeDin n).table = s.table := rfl
@[simp] theorem State.consumeDin_ready (n : Count) : (s.consumeDin n).ready = s.ready := rfl
@[simp] theorem State.consumeDin_errPsize (n : Count) : (s.consumeDin n).errPsize = s.errPsize := rfl
@[simp] theorem State.consumeDin_errOp (n : Count) : (s.consumeDin n).errOp = s.errOp := rfl
@[simp] theorem State.consumeDin_crc (n : Count) : (s.consumeDin n).crc = s.crc := rfl
@[simp] theorem State.consumeDin_acc (n : Count) : (s.consumeDin n).acc = s.acc := rfl
@[simp] theorem State.consumeDin_nb (n : Count) : (s.consumeDin n).nb = s.nb := rfl
@[simp] theorem State.consumeDin_x (n : Count) : (s.consumeDin n).x = s.x := rfl
@[simp] theorem State.consumeDin_idx (n : Count) : (s.consumeDin n).idx = s.idx := rfl
@[simp] theorem State.consumeDin_cmd (n : Count) : (s.consumeDin n).cmd = s.cmd := rfl
@[simp] theorem State.consumeDin_len (n : Count) : (s.consumeDin n).len = s.len := rfl
@[simp] theorem State.consumeDin_ph (n : Count) : (s.consumeDin n).ph = s.ph := rfl
@[simp] theorem State.consumeDin_pending (n : Count) : (s.consumeDin n).pending = s.pending := rfl
@[simp] theorem State.consumeDin_din (n : Count) : (s.consumeDin n).din = s.din.drop n.toNat := rfl
@[simp] theorem State.consumeDin_pin (n : Count) : (s.consumeDin n).pin = s.pin := rfl
@[simp] theorem State.consumeDin_dout (n : Count) : (s.consumeDin n).dout = s.dout := rfl
@[simp] theorem State.consumeDin_rsp (n : Count) : (s.consumeDin n).rsp = s.rsp := rfl
@[simp] theorem State.consumeDin_rst (n : Count) : (s.consumeDin n).rst = s.rst := rfl
@[simp] theorem State.consumeDin_draws (n : Count) : (s.consumeDin n).draws = s.draws := rfl

@[simp] theorem State.consumePin_table (n : Count) : (s.consumePin n).table = s.table := rfl
@[simp] theorem State.consumePin_ready (n : Count) : (s.consumePin n).ready = s.ready := rfl
@[simp] theorem State.consumePin_errPsize (n : Count) : (s.consumePin n).errPsize = s.errPsize := rfl
@[simp] theorem State.consumePin_errOp (n : Count) : (s.consumePin n).errOp = s.errOp := rfl
@[simp] theorem State.consumePin_crc (n : Count) : (s.consumePin n).crc = s.crc := rfl
@[simp] theorem State.consumePin_acc (n : Count) : (s.consumePin n).acc = s.acc := rfl
@[simp] theorem State.consumePin_nb (n : Count) : (s.consumePin n).nb = s.nb := rfl
@[simp] theorem State.consumePin_x (n : Count) : (s.consumePin n).x = s.x := rfl
@[simp] theorem State.consumePin_idx (n : Count) : (s.consumePin n).idx = s.idx := rfl
@[simp] theorem State.consumePin_cmd (n : Count) : (s.consumePin n).cmd = s.cmd := rfl
@[simp] theorem State.consumePin_len (n : Count) : (s.consumePin n).len = s.len := rfl
@[simp] theorem State.consumePin_ph (n : Count) : (s.consumePin n).ph = s.ph := rfl
@[simp] theorem State.consumePin_pending (n : Count) : (s.consumePin n).pending = s.pending := rfl
@[simp] theorem State.consumePin_din (n : Count) : (s.consumePin n).din = s.din := rfl
@[simp] theorem State.consumePin_pin (n : Count) : (s.consumePin n).pin = s.pin.drop n.toNat := rfl
@[simp] theorem State.consumePin_dout (n : Count) : (s.consumePin n).dout = s.dout := rfl
@[simp] theorem State.consumePin_rsp (n : Count) : (s.consumePin n).rsp = s.rsp := rfl
@[simp] theorem State.consumePin_rst (n : Count) : (s.consumePin n).rst = s.rst := rfl
@[simp] theorem State.consumePin_draws (n : Count) : (s.consumePin n).draws = s.draws := rfl

@[simp] theorem State.emit_table (bs : List Byte) : (s.emit bs).table = s.table := rfl
@[simp] theorem State.emit_ready (bs : List Byte) : (s.emit bs).ready = s.ready := rfl
@[simp] theorem State.emit_errPsize (bs : List Byte) : (s.emit bs).errPsize = s.errPsize := rfl
@[simp] theorem State.emit_errOp (bs : List Byte) : (s.emit bs).errOp = s.errOp := rfl
@[simp] theorem State.emit_crc (bs : List Byte) : (s.emit bs).crc = s.crc := rfl
@[simp] theorem State.emit_acc (bs : List Byte) : (s.emit bs).acc = s.acc := rfl
@[simp] theorem State.emit_nb (bs : List Byte) : (s.emit bs).nb = s.nb := rfl
@[simp] theorem State.emit_x (bs : List Byte) : (s.emit bs).x = s.x := rfl
@[simp] theorem State.emit_idx (bs : List Byte) : (s.emit bs).idx = s.idx := rfl
@[simp] theorem State.emit_cmd (bs : List Byte) : (s.emit bs).cmd = s.cmd := rfl
@[simp] theorem State.emit_len (bs : List Byte) : (s.emit bs).len = s.len := rfl
@[simp] theorem State.emit_ph (bs : List Byte) : (s.emit bs).ph = s.ph := rfl
@[simp] theorem State.emit_pending (bs : List Byte) : (s.emit bs).pending = s.pending := rfl
@[simp] theorem State.emit_din (bs : List Byte) : (s.emit bs).din = s.din := rfl
@[simp] theorem State.emit_pin (bs : List Byte) : (s.emit bs).pin = s.pin := rfl
@[simp] theorem State.emit_dout (bs : List Byte) : (s.emit bs).dout = s.dout ++ markLast bs := rfl
@[simp] theorem State.emit_rsp (bs : List Byte) : (s.emit bs).rsp = s.rsp := rfl
@[simp] theorem State.emit_rst (bs : List Byte) : (s.emit bs).rst = s.rst := rfl
@[simp] theorem State.emit_draws (bs : List Byte) : (s.emit bs).draws = s.draws := rfl

@[simp] theorem State.respond_table (r : Rsp) : (s.respond r).table = s.table := rfl
@[simp] theorem State.respond_ready (r : Rsp) : (s.respond r).ready = s.ready := rfl
@[simp] theorem State.respond_errPsize (r : Rsp) : (s.respond r).errPsize = s.errPsize := rfl
@[simp] theorem State.respond_errOp (r : Rsp) : (s.respond r).errOp = s.errOp := rfl
@[simp] theorem State.respond_crc (r : Rsp) : (s.respond r).crc = s.crc := rfl
@[simp] theorem State.respond_acc (r : Rsp) : (s.respond r).acc = s.acc := rfl
@[simp] theorem State.respond_nb (r : Rsp) : (s.respond r).nb = s.nb := rfl
@[simp] theorem State.respond_x (r : Rsp) : (s.respond r).x = s.x := rfl
@[simp] theorem State.respond_idx (r : Rsp) : (s.respond r).idx = s.idx := rfl
@[simp] theorem State.respond_cmd (r : Rsp) : (s.respond r).cmd = s.cmd := rfl
@[simp] theorem State.respond_len (r : Rsp) : (s.respond r).len = s.len := rfl
@[simp] theorem State.respond_ph (r : Rsp) : (s.respond r).ph = s.ph := rfl
@[simp] theorem State.respond_pending (r : Rsp) : (s.respond r).pending = s.pending := rfl
@[simp] theorem State.respond_din (r : Rsp) : (s.respond r).din = s.din := rfl
@[simp] theorem State.respond_pin (r : Rsp) : (s.respond r).pin = s.pin := rfl
@[simp] theorem State.respond_dout (r : Rsp) : (s.respond r).dout = s.dout := rfl
@[simp] theorem State.respond_rsp (r : Rsp) : (s.respond r).rsp = s.rsp ++ [r] := rfl
@[simp] theorem State.respond_rst (r : Rsp) : (s.respond r).rst = s.rst := rfl
@[simp] theorem State.respond_draws (r : Rsp) : (s.respond r).draws = s.draws := rfl

@[simp] theorem State.setTable_table (m : Memory) : (s.setTable m).table = m := rfl
@[simp] theorem State.setTable_ready (m : Memory) : (s.setTable m).ready = s.ready := rfl
@[simp] theorem State.setTable_errPsize (m : Memory) : (s.setTable m).errPsize = s.errPsize := rfl
@[simp] theorem State.setTable_errOp (m : Memory) : (s.setTable m).errOp = s.errOp := rfl
@[simp] theorem State.setTable_crc (m : Memory) : (s.setTable m).crc = s.crc := rfl
@[simp] theorem State.setTable_acc (m : Memory) : (s.setTable m).acc = s.acc := rfl
@[simp] theorem State.setTable_nb (m : Memory) : (s.setTable m).nb = s.nb := rfl
@[simp] theorem State.setTable_x (m : Memory) : (s.setTable m).x = s.x := rfl
@[simp] theorem State.setTable_idx (m : Memory) : (s.setTable m).idx = s.idx := rfl
@[simp] theorem State.setTable_cmd (m : Memory) : (s.setTable m).cmd = s.cmd := rfl
@[simp] theorem State.setTable_len (m : Memory) : (s.setTable m).len = s.len := rfl
@[simp] theorem State.setTable_ph (m : Memory) : (s.setTable m).ph = s.ph := rfl
@[simp] theorem State.setTable_pending (m : Memory) : (s.setTable m).pending = s.pending := rfl
@[simp] theorem State.setTable_din (m : Memory) : (s.setTable m).din = s.din := rfl
@[simp] theorem State.setTable_pin (m : Memory) : (s.setTable m).pin = s.pin := rfl
@[simp] theorem State.setTable_dout (m : Memory) : (s.setTable m).dout = s.dout := rfl
@[simp] theorem State.setTable_rsp (m : Memory) : (s.setTable m).rsp = s.rsp := rfl
@[simp] theorem State.setTable_rst (m : Memory) : (s.setTable m).rst = s.rst := rfl
@[simp] theorem State.setTable_draws (m : Memory) : (s.setTable m).draws = s.draws := rfl

@[simp] theorem State.setChecksum_table (k : Byte) (n : Count) : (s.setChecksum k n).table = s.table := rfl
@[simp] theorem State.setChecksum_ready (k : Byte) (n : Count) : (s.setChecksum k n).ready = s.ready := rfl
@[simp] theorem State.setChecksum_errPsize (k : Byte) (n : Count) : (s.setChecksum k n).errPsize = s.errPsize := rfl
@[simp] theorem State.setChecksum_errOp (k : Byte) (n : Count) : (s.setChecksum k n).errOp = s.errOp := rfl
@[simp] theorem State.setChecksum_crc (k : Byte) (n : Count) : (s.setChecksum k n).crc = k := rfl
@[simp] theorem State.setChecksum_acc (k : Byte) (n : Count) : (s.setChecksum k n).acc = s.acc := rfl
@[simp] theorem State.setChecksum_nb (k : Byte) (n : Count) : (s.setChecksum k n).nb = s.nb := rfl
@[simp] theorem State.setChecksum_x (k : Byte) (n : Count) : (s.setChecksum k n).x = s.x := rfl
@[simp] theorem State.setChecksum_idx (k : Byte) (n : Count) : (s.setChecksum k n).idx = n := rfl
@[simp] theorem State.setChecksum_cmd (k : Byte) (n : Count) : (s.setChecksum k n).cmd = s.cmd := rfl
@[simp] theorem State.setChecksum_len (k : Byte) (n : Count) : (s.setChecksum k n).len = s.len := rfl
@[simp] theorem State.setChecksum_ph (k : Byte) (n : Count) : (s.setChecksum k n).ph = s.ph := rfl
@[simp] theorem State.setChecksum_pending (k : Byte) (n : Count) : (s.setChecksum k n).pending = s.pending := rfl
@[simp] theorem State.setChecksum_din (k : Byte) (n : Count) : (s.setChecksum k n).din = s.din := rfl
@[simp] theorem State.setChecksum_pin (k : Byte) (n : Count) : (s.setChecksum k n).pin = s.pin := rfl
@[simp] theorem State.setChecksum_dout (k : Byte) (n : Count) : (s.setChecksum k n).dout = s.dout := rfl
@[simp] theorem State.setChecksum_rsp (k : Byte) (n : Count) : (s.setChecksum k n).rsp = s.rsp := rfl
@[simp] theorem State.setChecksum_rst (k : Byte) (n : Count) : (s.setChecksum k n).rst = s.rst := rfl
@[simp] theorem State.setChecksum_draws (k : Byte) (n : Count) : (s.setChecksum k n).draws = s.draws := rfl

@[simp] theorem State.setPhase_table (p : Phase) : (s.setPhase p).table = s.table := rfl
@[simp] theorem State.setPhase_ready (p : Phase) : (s.setPhase p).ready = s.ready := rfl
@[simp] theorem State.setPhase_errPsize (p : Phase) : (s.setPhase p).errPsize = s.errPsize := rfl
@[simp] theorem State.setPhase_errOp (p : Phase) : (s.setPhase p).errOp = s.errOp := rfl
@[simp] theorem State.setPhase_crc (p : Phase) : (s.setPhase p).crc = s.crc := rfl
@[simp] theorem State.setPhase_acc (p : Phase) : (s.setPhase p).acc = s.acc := rfl
@[simp] theorem State.setPhase_nb (p : Phase) : (s.setPhase p).nb = s.nb := rfl
@[simp] theorem State.setPhase_x (p : Phase) : (s.setPhase p).x = s.x := rfl
@[simp] theorem State.setPhase_idx (p : Phase) : (s.setPhase p).idx = s.idx := rfl
@[simp] theorem State.setPhase_cmd (p : Phase) : (s.setPhase p).cmd = s.cmd := rfl
@[simp] theorem State.setPhase_len (p : Phase) : (s.setPhase p).len = s.len := rfl
@[simp] theorem State.setPhase_ph (p : Phase) : (s.setPhase p).ph = p := rfl
@[simp] theorem State.setPhase_pending (p : Phase) : (s.setPhase p).pending = s.pending := rfl
@[simp] theorem State.setPhase_din (p : Phase) : (s.setPhase p).din = s.din := rfl
@[simp] theorem State.setPhase_pin (p : Phase) : (s.setPhase p).pin = s.pin := rfl
@[simp] theorem State.setPhase_dout (p : Phase) : (s.setPhase p).dout = s.dout := rfl
@[simp] theorem State.setPhase_rsp (p : Phase) : (s.setPhase p).rsp = s.rsp := rfl
@[simp] theorem State.setPhase_rst (p : Phase) : (s.setPhase p).rst = s.rst := rfl
@[simp] theorem State.setPhase_draws (p : Phase) : (s.setPhase p).draws = s.draws := rfl

@[simp] theorem State.setPacker_table (a : Byte) (b : BitVec 4) (n : Count) : (s.setPacker a b n).table = s.table := rfl
@[simp] theorem State.setPacker_ready (a : Byte) (b : BitVec 4) (n : Count) : (s.setPacker a b n).ready = s.ready := rfl
@[simp] theorem State.setPacker_errPsize (a : Byte) (b : BitVec 4) (n : Count) : (s.setPacker a b n).errPsize = s.errPsize := rfl
@[simp] theorem State.setPacker_errOp (a : Byte) (b : BitVec 4) (n : Count) : (s.setPacker a b n).errOp = s.errOp := rfl
@[simp] theorem State.setPacker_crc (a : Byte) (b : BitVec 4) (n : Count) : (s.setPacker a b n).crc = s.crc := rfl
@[simp] theorem State.setPacker_acc (a : Byte) (b : BitVec 4) (n : Count) : (s.setPacker a b n).acc = a := rfl
@[simp] theorem State.setPacker_nb (a : Byte) (b : BitVec 4) (n : Count) : (s.setPacker a b n).nb = b := rfl
@[simp] theorem State.setPacker_x (a : Byte) (b : BitVec 4) (n : Count) : (s.setPacker a b n).x = n := rfl
@[simp] theorem State.setPacker_idx (a : Byte) (b : BitVec 4) (n : Count) : (s.setPacker a b n).idx = s.idx := rfl
@[simp] theorem State.setPacker_cmd (a : Byte) (b : BitVec 4) (n : Count) : (s.setPacker a b n).cmd = s.cmd := rfl
@[simp] theorem State.setPacker_len (a : Byte) (b : BitVec 4) (n : Count) : (s.setPacker a b n).len = s.len := rfl
@[simp] theorem State.setPacker_ph (a : Byte) (b : BitVec 4) (n : Count) : (s.setPacker a b n).ph = s.ph := rfl
@[simp] theorem State.setPacker_pending (a : Byte) (b : BitVec 4) (n : Count) : (s.setPacker a b n).pending = s.pending := rfl
@[simp] theorem State.setPacker_din (a : Byte) (b : BitVec 4) (n : Count) : (s.setPacker a b n).din = s.din := rfl
@[simp] theorem State.setPacker_pin (a : Byte) (b : BitVec 4) (n : Count) : (s.setPacker a b n).pin = s.pin := rfl
@[simp] theorem State.setPacker_dout (a : Byte) (b : BitVec 4) (n : Count) : (s.setPacker a b n).dout = s.dout := rfl
@[simp] theorem State.setPacker_rsp (a : Byte) (b : BitVec 4) (n : Count) : (s.setPacker a b n).rsp = s.rsp := rfl
@[simp] theorem State.setPacker_rst (a : Byte) (b : BitVec 4) (n : Count) : (s.setPacker a b n).rst = s.rst := rfl
@[simp] theorem State.setPacker_draws (a : Byte) (b : BitVec 4) (n : Count) : (s.setPacker a b n).draws = s.draws := rfl

@[simp] theorem State.raise_table (f : BlockFault) : (s.raise f).table = s.table := rfl
@[simp] theorem State.raise_ready (f : BlockFault) : (s.raise f).ready = s.ready := rfl
@[simp] theorem State.raise_errPsize (f : BlockFault) : (s.raise f).errPsize = (f.setsPsize || s.errPsize) := rfl
@[simp] theorem State.raise_errOp (f : BlockFault) : (s.raise f).errOp = (f.setsOp || s.errOp) := rfl
@[simp] theorem State.raise_crc (f : BlockFault) : (s.raise f).crc = s.crc := rfl
@[simp] theorem State.raise_acc (f : BlockFault) : (s.raise f).acc = s.acc := rfl
@[simp] theorem State.raise_nb (f : BlockFault) : (s.raise f).nb = s.nb := rfl
@[simp] theorem State.raise_x (f : BlockFault) : (s.raise f).x = s.x := rfl
@[simp] theorem State.raise_idx (f : BlockFault) : (s.raise f).idx = s.idx := rfl
@[simp] theorem State.raise_cmd (f : BlockFault) : (s.raise f).cmd = s.cmd := rfl
@[simp] theorem State.raise_len (f : BlockFault) : (s.raise f).len = s.len := rfl
@[simp] theorem State.raise_ph (f : BlockFault) : (s.raise f).ph = s.ph := rfl
@[simp] theorem State.raise_pending (f : BlockFault) : (s.raise f).pending = s.pending := rfl
@[simp] theorem State.raise_din (f : BlockFault) : (s.raise f).din = s.din := rfl
@[simp] theorem State.raise_pin (f : BlockFault) : (s.raise f).pin = s.pin := rfl
@[simp] theorem State.raise_dout (f : BlockFault) : (s.raise f).dout = s.dout := rfl
@[simp] theorem State.raise_rsp (f : BlockFault) : (s.raise f).rsp = s.rsp ++ [f.response] := rfl
@[simp] theorem State.raise_rst (f : BlockFault) : (s.raise f).rst = s.rst := rfl
@[simp] theorem State.raise_draws (f : BlockFault) : (s.raise f).draws = s.draws := rfl

@[simp] theorem State.assertReset_table : s.assertReset.table = Memory.unspecified s.draws s.table := rfl
@[simp] theorem State.assertReset_ready : s.assertReset.ready = false := rfl
@[simp] theorem State.assertReset_errPsize : s.assertReset.errPsize = false := rfl
@[simp] theorem State.assertReset_errOp : s.assertReset.errOp = false := rfl
@[simp] theorem State.assertReset_crc : s.assertReset.crc = s.crc := rfl
@[simp] theorem State.assertReset_acc : s.assertReset.acc = s.acc := rfl
@[simp] theorem State.assertReset_nb : s.assertReset.nb = s.nb := rfl
@[simp] theorem State.assertReset_x : s.assertReset.x = s.x := rfl
@[simp] theorem State.assertReset_idx : s.assertReset.idx = s.idx := rfl
@[simp] theorem State.assertReset_cmd : s.assertReset.cmd = s.cmd := rfl
@[simp] theorem State.assertReset_len : s.assertReset.len = s.len := rfl
@[simp] theorem State.assertReset_ph : s.assertReset.ph = s.ph := rfl
@[simp] theorem State.assertReset_pending : s.assertReset.pending = [] := rfl
@[simp] theorem State.assertReset_din : s.assertReset.din = [] := rfl
@[simp] theorem State.assertReset_pin : s.assertReset.pin = [] := rfl
@[simp] theorem State.assertReset_dout : s.assertReset.dout = [] := rfl
@[simp] theorem State.assertReset_rsp : s.assertReset.rsp = [] := rfl
@[simp] theorem State.assertReset_rst : s.assertReset.rst = false := rfl
@[simp] theorem State.assertReset_draws : s.assertReset.draws = s.draws + 1 := rfl

@[simp] theorem State.finishReset_table : s.finishReset.table = Memory.generate s.table := rfl
@[simp] theorem State.finishReset_ready : s.finishReset.ready = true := rfl
@[simp] theorem State.finishReset_errPsize : s.finishReset.errPsize = s.errPsize := rfl
@[simp] theorem State.finishReset_errOp : s.finishReset.errOp = s.errOp := rfl
@[simp] theorem State.finishReset_crc : s.finishReset.crc = 0#8 := rfl
@[simp] theorem State.finishReset_acc : s.finishReset.acc = 0#8 := rfl
@[simp] theorem State.finishReset_nb : s.finishReset.nb = 0#4 := rfl
@[simp] theorem State.finishReset_x : s.finishReset.x = 0#16 := rfl
@[simp] theorem State.finishReset_idx : s.finishReset.idx = 0#16 := rfl
@[simp] theorem State.finishReset_cmd : s.finishReset.cmd = 0#8 := rfl
@[simp] theorem State.finishReset_len : s.finishReset.len = 0#16 := rfl
@[simp] theorem State.finishReset_ph : s.finishReset.ph = .done := rfl
@[simp] theorem State.finishReset_pending : s.finishReset.pending = s.pending := rfl
@[simp] theorem State.finishReset_din : s.finishReset.din = s.din := rfl
@[simp] theorem State.finishReset_pin : s.finishReset.pin = s.pin := rfl
@[simp] theorem State.finishReset_dout : s.finishReset.dout = s.dout := rfl
@[simp] theorem State.finishReset_rsp : s.finishReset.rsp = s.rsp := rfl
@[simp] theorem State.finishReset_rst : s.finishReset.rst = s.rst := rfl
@[simp] theorem State.finishReset_draws : s.finishReset.draws = s.draws := rfl

end Sys2Proof.Machine
end

