-- ==== Sys2Proof/Laws/Ops.lean ====
section
/-! SUPPORT. What the shared operations can do: the input a request brings, the marks on an operation's output, the bytes of a
frame, and the loop of PACK one pixel at a time. -/

namespace Sys2Proof.Machine

theorem State.offered_of_pending {s : State} {r : Request} {rs : List Request} (h : s.pending = r :: rs) :
    s.offered = r := by
  rw [State.offered, h, List.headD_cons]

@[simp] theorem State.hasDin_iff {s : State} {len : Count} :
    s.hasDin len = true ↔ len.toNat ≤ s.offered.din.length := decide_eq_true_iff

@[simp] theorem State.hasPin_iff {s : State} {len : Count} :
    s.hasPin len = true ↔ len.toNat ≤ s.offered.pin.length := decide_eq_true_iff

/-- With the announced input there, the operand has exactly the announced length (rule R52). -/
theorem State.length_dinOperand {s : State} {len : Count} (h : len.toNat ≤ s.offered.din.length) :
    (s.dinOperand len).length = len.toNat := by
  rw [State.dinOperand, List.length_take, Nat.min_eq_left h]

/-- With the announced input there, the operand has exactly the announced length (rule R53). -/
theorem State.length_pinOperand {s : State} {len : Count} (h : len.toNat ≤ s.offered.pin.length) :
    (s.pinOperand len).length = len.toNat := by
  rw [State.pinOperand, List.length_take, Nat.min_eq_left h]

@[simp] theorem markLast_nil : markLast [] = [] := rfl

/-- The final byte carries the mark and no other does (rule R34). -/
@[simp] theorem markLast_concat (bs : List Byte) (b : Byte) :
    markLast (bs ++ [b]) = bs.map (fun c => { byte := c, last := false }) ++ [{ byte := b, last := true }] := by
  induction bs with
  | nil => rfl
  | cons c bs ih =>
    cases bs with
    | nil => rfl
    | cons d bs => simpa [markLast] using ih

@[simp] theorem markLast_length (bs : List Byte) : (markLast bs).length = bs.length := by
  rcases List.eq_nil_or_concat bs with rfl | ⟨bs, b, rfl⟩ <;> simp

/-- The marks change no byte. -/
@[simp] theorem markLast_bytes (bs : List Byte) : (markLast bs).map OutByte.byte = bs := by
  rcases List.eq_nil_or_concat bs with rfl | ⟨bs, b, rfl⟩
  · rfl
  · rw [List.concat_eq_append, markLast_concat, List.map_append, List.map_map]
    exact congrArg (· ++ [b]) (List.map_id bs)

/-- A frame has eight bytes beside its payload (rule R122). -/
@[simp] theorem length_frameBytes (cmd n : Byte) (p : List Byte) (k : Byte) :
    (frameBytes cmd n p k).length = p.length + 8 := by
  simp only [frameBytes, List.length_append, List.length_cons, List.length_nil]
  omega

@[simp] theorem crcFrom_nil (table : Memory) (crc : Byte) : crcFrom table crc [] = crc := rfl

@[simp] theorem crcFrom_cons (table : Memory) (crc d : Byte) (p : List Byte) :
    crcFrom table crc (d :: p) = crcFrom table (crcStep table crc d) p := rfl

/-- The running value over a sequence in two parts. -/
theorem crcFrom_append (table : Memory) (crc : Byte) (p q : List Byte) :
    crcFrom table crc (p ++ q) = crcFrom table (crcFrom table crc p) q := by
  induction p generalizing crc with
  | nil => rfl
  | cons d p ih => exact ih _

/-- The loop of PACK over one more pixel. -/
theorem packLoop_concat (o : PackOrder) (bits : List Bool) (t : Bool) :
    packLoop o (bits ++ [t]) = packPixel o (packLoop o bits) t := by
  simp [packLoop]

@[simp] theorem PackRun.emitByte_acc (run : PackRun) (b : Byte) : (run.emitByte b).acc = 0x00#8 := rfl
@[simp] theorem PackRun.emitByte_nb (run : PackRun) (b : Byte) : (run.emitByte b).nb = 0#4 := rfl
@[simp] theorem PackRun.emitByte_out (run : PackRun) (b : Byte) : (run.emitByte b).out = run.out ++ [b] := rfl

/-- Between two pixels `NB` is below 8, and `ACC` is 0 whenever `NB` is (rules R23, R24). -/
theorem packLoop_clear (o : PackOrder) (bits : List Bool) :
    (packLoop o bits).nb.toNat < 8 ∧ ((packLoop o bits).nb = 0#4 → (packLoop o bits).acc = 0x00#8) := by
  induction bits using List.reverseRecOn with
  | nil => exact ⟨Nat.zero_lt_succ 7, fun _ => rfl⟩
  | append_singleton bits t ih =>
    rw [packLoop_concat]
    unfold packPixel
    split
    · exact ⟨Nat.zero_lt_succ 7, fun _ => rfl⟩
    · next h =>
      have h' : (packLoop o bits).nb + 1#4 ≠ 8#4 := h
      exact ⟨by bv_omega, fun h0 => absurd h0 (by bv_omega)⟩

/-- At the end of a row `NB` is 0 (rule R24). -/
@[simp] theorem PackRun.finish_nb (run : PackRun) : run.finish.nb = 0#4 := by
  unfold PackRun.finish
  split
  · assumption
  · rfl

/-- The bytes of a row are those the loop emitted and the partly filled one (rules R154, R155). -/
theorem PackRun.finish_out (run : PackRun) :
    run.finish.out = if run.nb = 0#4 then run.out else run.out ++ [run.acc] := by
  unfold PackRun.finish
  split <;> rfl

end Sys2Proof.Machine
end

