-- ==== Sys2Proof/Laws/Exec.lean ====
section
/-! SUPPORT. What each operation answers, said once: one lemma per operation with every case it has. Proofs cite these instead of
unfolding a meaning. -/

namespace Sys2Proof.Machine

/-- CRC8 waits for its input or completes. -/
theorem execCrc8_cases (cmd : Byte) (len : Count) (s : State) :
    (s.offered.din.length < len.toNat ∧ execCrc8 cmd len s = .next s) ∨
    (len.toNat ≤ s.offered.din.length ∧ execCrc8 cmd len s =
      .next (((((s.accept cmd len).consumeDin len).setChecksum (checksum s.table (s.dinOperand len)) len).emit
        [checksum s.table (s.dinOperand len)]).respond .ok)) := by
  unfold execCrc8
  by_cases h : len.toNat ≤ s.offered.din.length
  · exact .inr ⟨h, if_pos (State.hasDin_iff.mpr h)⟩
  · exact .inl ⟨Nat.lt_of_not_le h, if_neg (mt State.hasDin_iff.mp h)⟩

/-- Encoding a frame faults on an oversize payload, waits for its input, or completes. -/
theorem encodeFrame_cases (cmd : Byte) (len : Count) (s : State) :
    (255 < len.toNat ∧ encodeFrame cmd len s = .next ((s.accept cmd len).raise .invalidPayloadSize)) ∨
    (len.toNat ≤ 255 ∧ s.offered.din.length < len.toNat ∧ encodeFrame cmd len s = .next s) ∨
    (len.toNat ≤ 255 ∧ len.toNat ≤ s.offered.din.length ∧ encodeFrame cmd len s =
      .next ((((((s.accept cmd len).consumeDin len).setChecksum (checksum s.table (s.dinOperand len)) len).emit
        (frameBytes cmd (len.setWidth 8) (s.dinOperand len) (checksum s.table (s.dinOperand len)))).setPhase
          .done).respond .ok)) := by
  unfold encodeFrame
  by_cases h : 255 < len.toNat
  · exact .inl ⟨h, if_pos h⟩
  · rw [if_neg (show ¬ Params.maxPayload < len.toNat from h)]
    by_cases h' : len.toNat ≤ s.offered.din.length
    · exact .inr (.inr ⟨Nat.le_of_not_lt h, h', if_pos (State.hasDin_iff.mpr h')⟩)
    · exact .inr (.inl ⟨Nat.le_of_not_lt h, Nat.lt_of_not_le h', if_neg (mt State.hasDin_iff.mp h')⟩)

/-- PACK waits for its input or completes. -/
theorem execPack_cases (cmd : Byte) (len : Count) (s : State) :
    (s.offered.pin.length < len.toNat ∧ execPack cmd len s = .next s) ∨
    (len.toNat ≤ s.offered.pin.length ∧ ∃ run,
      run = (packLoop Params.packOrder ((s.pinOperand len).map paintedWord)).finish ∧ execPack cmd len s =
      .next (((((s.accept cmd len).consumePin len).setPacker run.acc run.nb len).emit run.out).respond .ok)) := by
  unfold execPack
  by_cases h : len.toNat ≤ s.offered.pin.length
  · exact .inr ⟨h, _, rfl, if_pos (State.hasPin_iff.mpr h)⟩
  · exact .inl ⟨Nat.lt_of_not_le h, if_neg (mt State.hasPin_iff.mp h)⟩

/-- FENC and the six commands are one operation with the command byte of their row (rules R80, R126 to R131). -/
theorem exec_of_frameOf {i : Instr} {cmd : Byte} {len : Count} (h : frameOf i = some (cmd, len)) (s : State) :
    exec i s = encodeFrame cmd len s := by
  cases i <;> simp only [frameOf, Option.some.injEq, Prod.mk.injEq, reduceCtorEq] at h <;>
    obtain ⟨rfl, rfl⟩ := h <;> rfl

/-- An operation is TGEN, CRC8, PACK or one that encodes a frame. -/
theorem exec_shapes (i : Instr) : (∃ c n, i = .tgen c n) ∨ (∃ c n, i = .crc8 c n) ∨ (∃ c n, i = .pack c n) ∨
    ∃ c n, frameOf i = some (c, n) := by
  cases i <;> simp [frameOf]

end Sys2Proof.Machine
end

