-- ==== Sys2Proof/Laws/Memory.lean ====
section
/-! SUPPORT. The laws of the table space: a read after a write, and every operation keeps the canonical form. -/

namespace Sys2Proof.Machine

@[simp] theorem Memory.read_nil (a : Nat) : Memory.read [] a = Memory.unlisted a := rfl

theorem Memory.read_cons (c : Host.Cell) (m : Memory) (a : Nat) :
    Memory.read (c :: m) a = if c.1 = a then c.2 else Memory.read m a := rfl

theorem Memory.erase_cons (c : Host.Cell) (m : Memory) (a : Nat) :
    Memory.erase (c :: m) a = if c.1 = a then Memory.erase m a else c :: Memory.erase m a := by
  by_cases h : c.1 = a <;> simp [Memory.erase, h]

theorem Memory.read_erase_same (m : Memory) (a : Nat) :
    (Memory.erase m a).read a = Memory.unlisted a := by
  induction m with
  | nil => rfl
  | cons c m ih =>
    rw [Memory.erase_cons]
    split
    · exact ih
    · next h => rw [Memory.read_cons, if_neg h, ih]

theorem Memory.read_erase_other (m : Memory) {a b : Nat} (h : b ≠ a) :
    (Memory.erase m a).read b = m.read b := by
  induction m with
  | nil => rfl
  | cons c m ih =>
    rw [Memory.erase_cons, Memory.read_cons]
    split
    · next hc => rw [if_neg (hc ▸ h.symm), ih]
    · rw [Memory.read_cons, ih]

theorem Memory.mem_erase {m : Memory} {a : Nat} {c : Host.Cell} :
    c ∈ Memory.erase m a ↔ c ∈ m ∧ c.1 ≠ a := by
  simp [Memory.erase]

theorem Memory.mem_insert {m : Memory} {a : Nat} {v : Byte} {c : Host.Cell} :
    c ∈ Memory.insert m a v ↔ c = (a, v) ∨ c ∈ m := by
  induction m with
  | nil => simp [Memory.insert]
  | cons d m ih =>
    obtain ⟨k, w⟩ := d
    simp only [Memory.insert]
    split
    · simp
    · simp only [List.mem_cons, ih]
      tauto

theorem Memory.read_insert (m : Memory) (a b : Nat) (v : Byte) (h : ∀ c ∈ m, c.1 ≠ a) :
    (Memory.insert m a v).read b = if a = b then v else m.read b := by
  induction m with
  | nil => rfl
  | cons d m ih =>
    obtain ⟨k, w⟩ := d
    simp only [Memory.insert]
    split
    · rfl
    · have hk : k ≠ a := h (k, w) (by simp)
      rw [Memory.read_cons, ih fun c hc => h c (by simp [hc]), Memory.read_cons]
      split <;> split <;> simp_all

/-- A read after a write to the same entry gives the value written. -/
theorem Memory.read_write_same (m : Memory) (a : Nat) (v : Byte) : (Memory.write m a v).read a = v := by
  unfold Memory.write
  split
  · next h => rw [Memory.read_erase_same, h]
  · rw [Memory.read_insert _ _ _ _ fun c hc => (Memory.mem_erase.mp hc).2, if_pos rfl]

/-- A write leaves every other entry alone. -/
theorem Memory.read_write_other (m : Memory) {a b : Nat} (v : Byte) (h : b ≠ a) :
    (Memory.write m a v).read b = m.read b := by
  unfold Memory.write
  split
  · exact Memory.read_erase_other m h
  · rw [Memory.read_insert _ _ _ _ fun c hc => (Memory.mem_erase.mp hc).2, if_neg h.symm,
      Memory.read_erase_other m h]

theorem Memory.rising_cons {c : Host.Cell} {m : Memory} :
    Memory.rising (c :: m) = true ↔ (∀ d ∈ m, c.1 < d.1) ∧ Memory.rising m = true := by
  simp [Memory.rising]

theorem Memory.rising_erase {m : Memory} (a : Nat) (h : Memory.rising m = true) :
    Memory.rising (Memory.erase m a) = true := by
  induction m with
  | nil => rfl
  | cons c m ih =>
    obtain ⟨hc, hm⟩ := Memory.rising_cons.mp h
    rw [Memory.erase_cons]
    split
    · exact ih hm
    · exact Memory.rising_cons.mpr ⟨fun d hd => hc d (Memory.mem_erase.mp hd).1, ih hm⟩

theorem Memory.rising_insert {m : Memory} {a : Nat} {v : Byte} (h : Memory.rising m = true)
    (ha : ∀ c ∈ m, c.1 ≠ a) : Memory.rising (Memory.insert m a v) = true := by
  induction m with
  | nil => rfl
  | cons d m ih =>
    obtain ⟨k, w⟩ := d
    obtain ⟨hd, hm⟩ := Memory.rising_cons.mp h
    have hk : k ≠ a := ha (k, w) (by simp)
    simp only [Memory.insert]
    split
    · next hlt =>
      rw [Memory.rising_cons]
      refine ⟨fun c hc => ?_, h⟩
      rcases List.mem_cons.mp hc with rfl | hc
      · exact hlt
      · exact Nat.lt_trans hlt (hd c hc)
    · next hlt =>
      rw [Memory.rising_cons]
      refine ⟨fun c hc => ?_, ih hm fun c hc => ha c (by simp [hc])⟩
      rcases Memory.mem_insert.mp hc with rfl | hc
      · show k < a
        omega
      · exact hd c hc

/-- What the canonical form says. -/
theorem Memory.wf_iff {m : Memory} : m.wf = true ↔
    Memory.rising m = true ∧ ∀ c ∈ m, c.1 < 256 ∧ c.2 ≠ Memory.unlisted c.1 := by
  unfold Memory.wf
  rw [Bool.and_eq_true, List.all_eq_true]
  refine and_congr_right fun _ => forall₂_congr fun c _ => ?_
  rw [Bool.and_eq_true, decide_eq_true_eq, decide_eq_true_eq, Params.tableSize]

theorem Memory.wf_nil : Memory.wf [] = true := rfl

/-- A write inside the space keeps the canonical form. -/
theorem Memory.wf_write {m : Memory} {a : Nat} (v : Byte) (h : m.wf = true) (ha : a < 256) :
    (Memory.write m a v).wf = true := by
  obtain ⟨hr, hm⟩ := Memory.wf_iff.mp h
  unfold Memory.write
  split
  · exact Memory.wf_iff.mpr ⟨Memory.rising_erase a hr, fun c hc => hm c (Memory.mem_erase.mp hc).1⟩
  · next hv =>
    refine Memory.wf_iff.mpr ⟨Memory.rising_insert (Memory.rising_erase a hr)
      fun c hc => (Memory.mem_erase.mp hc).2, fun c hc => ?_⟩
    rcases Memory.mem_insert.mp hc with rfl | hc
    · exact ⟨ha, hv⟩
    · exact hm c (Memory.mem_erase.mp hc).1

theorem Memory.wf_writeUpTo (f : Nat → Byte) {m : Memory} (h : m.wf = true) {n : Nat} (hn : n ≤ 256) :
    (Memory.writeUpTo f n m).wf = true := by
  induction n with
  | zero => exact h
  | succ n ih => exact Memory.wf_write _ (ih (by omega)) (by omega)

/-- The loop writes the entries below its bound and leaves the others. -/
theorem Memory.read_writeUpTo (f : Nat → Byte) (m : Memory) (n a : Nat) :
    (Memory.writeUpTo f n m).read a = if a < n then f a else m.read a := by
  induction n with
  | zero => rfl
  | succ n ih =>
    rw [Memory.writeUpTo]
    by_cases h : a = n
    · subst h
      rw [Memory.read_write_same, if_pos (by omega)]
    · rw [Memory.read_write_other _ _ h, ih]
      by_cases h' : a < n
      · rw [if_pos h', if_pos (by omega)]
      · rw [if_neg h', if_neg (by omega)]

/-- TGEN leaves every entry at its constant, whatever the table held. -/
@[simp] theorem Memory.read_generate (m : Memory) {a : Nat} (h : a < 256) :
    m.generate.read a = Memory.unlisted a := by
  rw [Memory.generate, Memory.read_writeUpTo, if_pos (by simpa [Params.tableSize] using h), Memory.unlisted]

/-- TGEN's loop keeps the canonical form. -/
theorem Memory.wf_generate {m : Memory} (h : m.wf = true) : m.generate.wf = true :=
  Memory.wf_writeUpTo _ h (by simp [Params.tableSize])

/-- Leaving the table unspecified keeps the canonical form, whatever the free value. -/
theorem Memory.wf_unspecified {m : Memory} (draw : Nat) (h : m.wf = true) :
    (m.unspecified draw).wf = true :=
  Memory.wf_writeUpTo _ h (by simp [Params.tableSize])

/-- An entry a canonical table lists does not read as the unlisted value. -/
theorem Memory.read_of_mem {m : Memory} (h : Memory.rising m = true) {c : Host.Cell} (hc : c ∈ m) :
    m.read c.1 = c.2 := by
  induction m with
  | nil => simp at hc
  | cons d m ih =>
    obtain ⟨hd, hm⟩ := Memory.rising_cons.mp h
    rw [Memory.read_cons]
    rcases List.mem_cons.mp hc with rfl | hc
    · rw [if_pos rfl]
    · rw [if_neg (Nat.ne_of_lt (hd c hc)), ih hm hc]

/-- A canonical table that reads everywhere as after reset lists nothing. -/
theorem Memory.eq_nil_of_read {m : Memory} (h : m.wf = true)
    (hr : ∀ a < 256, m.read a = Memory.unlisted a) : m = [] := by
  obtain ⟨hrise, hm⟩ := Memory.wf_iff.mp h
  apply List.eq_nil_iff_forall_not_mem.mpr
  intro c hc
  exact (hm c hc).2 ((Memory.read_of_mem hrise hc).symm.trans (hr c.1 (hm c hc).1))

/-- TGEN takes any canonical table to the one that lists nothing. -/
theorem Memory.generate_eq_nil {m : Memory} (h : m.wf = true) : m.generate = [] :=
  Memory.eq_nil_of_read (Memory.wf_generate h) fun _ ha => Memory.read_generate m ha

/-- An entry is addressed by a byte, and reads after reset as its constant (rule R101). -/
theorem Memory.unlisted_toNat (i : Byte) : Memory.unlisted i.toNat = tableEntry i := by
  rw [Memory.unlisted, BitVec.ofNat_toNat, BitVec.setWidth_eq]

end Sys2Proof.Machine
end

