-- ==== Sys2Proof/Laws/PerInstr.lean ====
section
/-! SUPPORT. Statements made for every constructor of `Instr`. TableRow: the word of an operation is one its row of
spec/opcode_table.json matches. -/

namespace Sys2Proof.Laws.TableRow

/-- The row's `mask` and `match`, as spec/opcode_table.json has them. -/
def row : Instr → Word × Word
  | .tgen _ _ => (0xFF000000#32, 0x00000000#32)
  | .crc8 _ _ => (0xFF000000#32, 0x20000000#32)
  | .fenc _ _ => (0xFF000000#32, 0x40000000#32)
  | .pack _ _ => (0xFF000000#32, 0x60000000#32)
  | .retract _ => (0xFFFF0000#32, 0x40A00000#32)
  | .feed _ => (0xFFFF0000#32, 0x40A10000#32)
  | .draw _ => (0xFFFF0000#32, 0x40A20000#32)
  | .quality _ => (0xFFFF0000#32, 0x40A40000#32)
  | .energy _ => (0xFFFF0000#32, 0x40AF0000#32)
  | .mode _ => (0xFFFF0000#32, 0x40BE0000#32)

/-- The operation's word is one its row matches (rule R80). -/
def Statement (i : Instr) : Prop := encode i &&& (row i).1 = (row i).2

/-- The upper byte of a request word is `op` and the zero `rsv`. -/
theorem requestWord_and_upper_byte (op : BitVec 3) (cmd : Byte) (len : Count) :
    requestWord op cmd len &&& 0xFF000000#32 = op ++ 0#29 := by
  have h : (0xFF000000#32 : BitVec 32) = BitVec.allOnes 8 ++ 0#24 := by decide
  rw [h]
  ext i hi
  simp only [requestWord, ← BitVec.getLsbD_eq_getElem, BitVec.getLsbD_and, BitVec.getLsbD_append,
    BitVec.getLsbD_allOnes, BitVec.getLsbD_zero]
  rcases Nat.lt_or_ge i 24 with h24 | h24
  · simp [h24, show i < 29 by omega]
  · rcases Nat.lt_or_ge i 29 with h29 | h29
    · simp [show ¬ i < 24 by omega, show ¬ i < 16 by omega, show ¬ i - 16 < 8 by omega,
        show i - 16 - 8 < 5 by omega, h29]
    · simp [show ¬ i < 24 by omega, show ¬ i < 16 by omega, show ¬ i - 16 < 8 by omega,
        show ¬ i - 16 - 8 < 5 by omega, show ¬ i < 29 by omega, show i - 24 < 8 by omega,
        show i - 16 - 8 - 5 = i - 29 by omega]

/-- The upper half of a request word is `op`, the zero `rsv` and `cmd`. -/
theorem requestWord_and_upper_half (op : BitVec 3) (cmd : Byte) (len : Count) :
    requestWord op cmd len &&& 0xFFFF0000#32 = op ++ 0#5 ++ cmd ++ 0#16 := by
  have h : (0xFFFF0000#32 : BitVec 32) = BitVec.allOnes 16 ++ 0#16 := by decide
  rw [requestWord, h, BitVec.and_append, BitVec.and_allOnes, BitVec.and_zero]

theorem tgen (cmd : Byte) (len : Count) : Statement (.tgen cmd len) := requestWord_and_upper_byte _ _ _
theorem crc8 (cmd : Byte) (len : Count) : Statement (.crc8 cmd len) := requestWord_and_upper_byte _ _ _
theorem fenc (cmd : Byte) (len : Count) : Statement (.fenc cmd len) := requestWord_and_upper_byte _ _ _
theorem pack (cmd : Byte) (len : Count) : Statement (.pack cmd len) := requestWord_and_upper_byte _ _ _
theorem retract (len : Count) : Statement (.retract len) := requestWord_and_upper_half _ _ _
theorem feed (len : Count) : Statement (.feed len) := requestWord_and_upper_half _ _ _
theorem draw (len : Count) : Statement (.draw len) := requestWord_and_upper_half _ _ _
theorem quality (len : Count) : Statement (.quality len) := requestWord_and_upper_half _ _ _
theorem energy (len : Count) : Statement (.energy len) := requestWord_and_upper_half _ _ _
theorem mode (len : Count) : Statement (.mode len) := requestWord_and_upper_half _ _ _

end Sys2Proof.Laws.TableRow
end

