-- ==== Sys2Proof/Tests/Slice0.lean ====
section
/-! SUPPORT. The model's own tests, each a named theorem: well-formedness, the decoding of words written out from the spec's
encodings, the spec's test vectors (95_test_vectors.md) and, for every statement that has hypotheses, a witness that meets them.
Expected results come from spec/, never from the model. -/

namespace Sys2Proof.Tests

set_option Elab.async false

open Sys2Proof.Machine

/-! ## Helpers -/

/-- The block just after reset with these requests offered. -/
def start (rs : List Request) : State := { State.reset with pending := rs }

/-- A request with this word and this input. -/
def req (word : Word) (din : List Byte) (pin : List Word) : Request := { word := word, din := din, pin := pin }

/-- What a step shows outside: the bytes on `DOUT`, the responses on `RSP` and `STATUS`. -/
def shown : Host.Outcome State Fault Refusal → Option (List Byte × List Rsp × Byte)
  | .next t => some (t.dout.map OutByte.byte, t.rsp, t.status)
  | .fault _ => none
  | .refused _ => none

/-- The pixel `K`, opaque black (rule R81). -/
def inkK : Word := 0x000000FF#32

/-- The pixel `.`, opaque white (rule R81). -/
def dotW : Word := 0xFFFFFFFF#32

/-- A row written with `true` for `K` and `false` for `.`. -/
def ink (l : List Bool) : List Word := l.map fun b => if b then inkK else dotW

/-- The bit of a pixel given by its channels. -/
def bitOf (r g b a : Byte) : Bool := paintedWord (r ++ g ++ b ++ a)

/-! ## Well-formedness (rule R80) -/

theorem test_wf_refuses_fenc_with_a_row_of_its_own :
    [0xA0#8, 0xA1#8, 0xA2#8, 0xA4#8, 0xAF#8, 0xBE#8].map (fun c => (Instr.fenc c 1#16).wellFormed) =
      [false, false, false, false, false, false] := by decide

theorem test_wf_accepts_other_commands :
    [0x00#8, 0xA3#8, 0xFF#8].map (fun c => (Instr.fenc c 1#16).wellFormed) = [true, true, true] := by decide

/-! ## Decoding: `op`, `rsv`, `cmd`, `len` written out field by field (rules R70, R71, R77) -/

theorem test_decode_tgen : decode (0b000#3 ++ 0b00000#5 ++ 0xFF#8 ++ 0xFFFF#16) = .ok (.tgen 0xFF#8 0xFFFF#16) := by decide
theorem test_decode_crc8 : decode (0b001#3 ++ 0b00000#5 ++ 0xAB#8 ++ 0x0001#16) = .ok (.crc8 0xAB#8 1#16) := by decide
theorem test_decode_fenc : decode (0b010#3 ++ 0b00000#5 ++ 0x00#8 ++ 0x0003#16) = .ok (.fenc 0x00#8 3#16) := by decide
theorem test_decode_pack : decode (0b011#3 ++ 0b00000#5 ++ 0xFF#8 ++ 0x0008#16) = .ok (.pack 0xFF#8 8#16) := by decide
theorem test_decode_retract : decode (0b010#3 ++ 0b00000#5 ++ 0b10100000#8 ++ 0#16) = .ok (.retract 0#16) := by decide
theorem test_decode_feed : decode (0b010#3 ++ 0b00000#5 ++ 0b10100001#8 ++ 1#16) = .ok (.feed 1#16) := by decide
theorem test_decode_draw : decode (0b010#3 ++ 0b00000#5 ++ 0b10100010#8 ++ 0xFF#16) = .ok (.draw 255#16) := by decide
theorem test_decode_quality : decode (0b010#3 ++ 0b00000#5 ++ 0b10100100#8 ++ 1#16) = .ok (.quality 1#16) := by decide
theorem test_decode_energy : decode (0b010#3 ++ 0b00000#5 ++ 0b10101111#8 ++ 1#16) = .ok (.energy 1#16) := by decide
theorem test_decode_mode : decode (0b010#3 ++ 0b00000#5 ++ 0b10111110#8 ++ 1#16) = .ok (.mode 1#16) := by decide

/-- Vectors X1, X2: every reserved `op`. -/
theorem test_decode_refuses_reserved_op :
    [0x80000000#32, 0xA0000000#32, 0xC0000000#32, 0xE0000000#32].map decode =
      [.error .reservedOp, .error .reservedOp, .error .reservedOp, .error .reservedOp] := by decide

/-- Vectors X3, X4, and each single bit of `rsv`. -/
theorem test_decode_refuses_rsv :
    [0x41A10001#32, 0x41000100#32, 0x02000000#32, 0x24000000#32, 0x68000000#32, 0x10000000#32].map decode =
      [.error .reservedBits, .error .reservedBits, .error .reservedBits, .error .reservedBits,
       .error .reservedBits, .error .reservedBits] := by decide

/-- The table's numbering: a request is 32 bits. -/
theorem test_decodeTableWord : decodeTableWord 32 0x40A20100 = some (.draw 256#16) := by decide

/-- Requests of section 2.2 of 95_test_vectors.md. -/
theorem test_encode :
    [Instr.crc8 0#8 9#16, .retract 1#16, .feed 1#16, .draw 2#16, .quality 1#16, .energy 1#16, .mode 1#16,
      .fenc 0#8 3#16, .pack 0#8 12#16, .tgen 0#8 0#16].map encode =
    [0x20000009#32, 0x40A00001#32, 0x40A10001#32, 0x40A20002#32, 0x40A40001#32, 0x40AF0001#32, 0x40BE0001#32,
      0x40000003#32, 0x6000000C#32, 0x00000000#32] := by decide

/-! ## The table (rule R105, copied row by row) -/

theorem test_table_00_3F : (List.range 64).map (fun i => tableEntry (BitVec.ofNat 8 i)) =
    [0x00#8, 0x07#8, 0x0E#8, 0x09#8, 0x1C#8, 0x1B#8, 0x12#8, 0x15#8, 0x38#8, 0x3F#8, 0x36#8, 0x31#8, 0x24#8, 0x23#8, 0x2A#8, 0x2D#8] ++
    [0x70#8, 0x77#8, 0x7E#8, 0x79#8, 0x6C#8, 0x6B#8, 0x62#8, 0x65#8, 0x48#8, 0x4F#8, 0x46#8, 0x41#8, 0x54#8, 0x53#8, 0x5A#8, 0x5D#8] ++
    [0xE0#8, 0xE7#8, 0xEE#8, 0xE9#8, 0xFC#8, 0xFB#8, 0xF2#8, 0xF5#8, 0xD8#8, 0xDF#8, 0xD6#8, 0xD1#8, 0xC4#8, 0xC3#8, 0xCA#8, 0xCD#8] ++
    [0x90#8, 0x97#8, 0x9E#8, 0x99#8, 0x8C#8, 0x8B#8, 0x82#8, 0x85#8, 0xA8#8, 0xAF#8, 0xA6#8, 0xA1#8, 0xB4#8, 0xB3#8, 0xBA#8, 0xBD#8] := by
  decide

theorem test_table_40_7F : (List.range 64).map (fun i => tableEntry (BitVec.ofNat 8 (64 + i))) =
    [0xC7#8, 0xC0#8, 0xC9#8, 0xCE#8, 0xDB#8, 0xDC#8, 0xD5#8, 0xD2#8, 0xFF#8, 0xF8#8, 0xF1#8, 0xF6#8, 0xE3#8, 0xE4#8, 0xED#8, 0xEA#8] ++
    [0xB7#8, 0xB0#8, 0xB9#8, 0xBE#8, 0xAB#8, 0xAC#8, 0xA5#8, 0xA2#8, 0x8F#8, 0x88#8, 0x81#8, 0x86#8, 0x93#8, 0x94#8, 0x9D#8, 0x9A#8] ++
    [0x27#8, 0x20#8, 0x29#8, 0x2E#8, 0x3B#8, 0x3C#8, 0x35#8, 0x32#8, 0x1F#8, 0x18#8, 0x11#8, 0x16#8, 0x03#8, 0x04#8, 0x0D#8, 0x0A#8] ++
    [0x57#8, 0x50#8, 0x59#8, 0x5E#8, 0x4B#8, 0x4C#8, 0x45#8, 0x42#8, 0x6F#8, 0x68#8, 0x61#8, 0x66#8, 0x73#8, 0x74#8, 0x7D#8, 0x7A#8] := by
  decide

theorem test_table_80_BF : (List.range 64).map (fun i => tableEntry (BitVec.ofNat 8 (128 + i))) =
    [0x89#8, 0x8E#8, 0x87#8, 0x80#8, 0x95#8, 0x92#8, 0x9B#8, 0x9C#8, 0xB1#8, 0xB6#8, 0xBF#8, 0xB8#8, 0xAD#8, 0xAA#8, 0xA3#8, 0xA4#8] ++
    [0xF9#8, 0xFE#8, 0xF7#8, 0xF0#8, 0xE5#8, 0xE2#8, 0xEB#8, 0xEC#8, 0xC1#8, 0xC6#8, 0xCF#8, 0xC8#8, 0xDD#8, 0xDA#8, 0xD3#8, 0xD4#8] ++
    [0x69#8, 0x6E#8, 0x67#8, 0x60#8, 0x75#8, 0x72#8, 0x7B#8, 0x7C#8, 0x51#8, 0x56#8, 0x5F#8, 0x58#8, 0x4D#8, 0x4A#8, 0x43#8, 0x44#8] ++
    [0x19#8, 0x1E#8, 0x17#8, 0x10#8, 0x05#8, 0x02#8, 0x0B#8, 0x0C#8, 0x21#8, 0x26#8, 0x2F#8, 0x28#8, 0x3D#8, 0x3A#8, 0x33#8, 0x34#8] := by
  decide

theorem test_table_C0_FF : (List.range 64).map (fun i => tableEntry (BitVec.ofNat 8 (192 + i))) =
    [0x4E#8, 0x49#8, 0x40#8, 0x47#8, 0x52#8, 0x55#8, 0x5C#8, 0x5B#8, 0x76#8, 0x71#8, 0x78#8, 0x7F#8, 0x6A#8, 0x6D#8, 0x64#8, 0x63#8] ++
    [0x3E#8, 0x39#8, 0x30#8, 0x37#8, 0x22#8, 0x25#8, 0x2C#8, 0x2B#8, 0x06#8, 0x01#8, 0x08#8, 0x0F#8, 0x1A#8, 0x1D#8, 0x14#8, 0x13#8] ++
    [0xAE#8, 0xA9#8, 0xA0#8, 0xA7#8, 0xB2#8, 0xB5#8, 0xBC#8, 0xBB#8, 0x96#8, 0x91#8, 0x98#8, 0x9F#8, 0x8A#8, 0x8D#8, 0x84#8, 0x83#8] ++
    [0xDE#8, 0xD9#8, 0xD0#8, 0xD7#8, 0xC2#8, 0xC5#8, 0xCC#8, 0xCB#8, 0xE6#8, 0xE1#8, 0xE8#8, 0xEF#8, 0xFA#8, 0xFD#8, 0xF4#8, 0xF3#8] := by
  decide

/-! ## CRC-8 unit (vectors K1 to K16) -/

theorem test_crc8_check_string : shown (step (start [req 0x20000009#32 [0x31#8, 0x32#8, 0x33#8, 0x34#8, 0x35#8, 0x36#8, 0x37#8, 0x38#8, 0x39#8] []])) =
    some ([0xF4#8], [.ok], 0x01#8) := by decide +kernel

theorem test_crc8_empty_and_ignored_cmd : shown (step (start [req 0x20AB0000#32 [] []])) =
    some ([0x00#8], [.ok], 0x01#8) := by decide

/-- K3, K4, K5, K6, K7, K9, K10, K11, K12. -/
theorem test_checksum_vectors : [[0x00#8, 0x00#8, 0x00#8, 0x00#8], [0x01#8], [0xFF#8], [0x01#8, 0x02#8], [0x02#8, 0x01#8],
      [0x01#8, 0x02#8, 0x03#8], [0x00#8, 0x01#8], [0xFF#8, 0xFF#8], [0x51#8, 0x78#8, 0xFF#8]].map (checksum []) =
    [0x00#8, 0x07#8, 0xF3#8, 0x1B#8, 0x2D#8, 0x48#8, 0x07#8, 0x24#8, 0xB6#8] := by decide +kernel

/-- TGEN puts a table that differs back to `T` (rule R102: `TABLE[0x50] = 0xB7`). -/
theorem test_tgen_rewrites_entries :
    (Memory.generate [(0x50, 0x00#8), (0xFF, 0x01#8)]).read 0x50 = 0xB7#8 := by decide +kernel

/-- K15 and X7. -/
theorem test_tgen_shows_nothing : shown (step (start [req 0x00FFFFFF#32 [] []])) =
    some ([], [.ok], 0x01#8) := by decide

/-! ## Frame encoder (vectors F1 to F19) -/

theorem test_fenc_undefined_command : shown (step (start [req 0x40000003#32 [0x51#8, 0x78#8, 0xFF#8] []])) =
    some ([0x51#8, 0x78#8, 0x00#8, 0x00#8, 0x03#8, 0x00#8, 0x51#8, 0x78#8, 0xFF#8, 0xB6#8, 0xFF#8], [.ok], 0x01#8) := by
  decide +kernel

/-- Program D's frame: its checksum is CRC8's of the same bytes. -/
theorem test_fenc_check_string : frameBytes 0xA1#8 9#8 [0x31#8, 0x32#8] 0xF4#8 =
    [0x51#8, 0x78#8, 0xA1#8, 0x00#8, 0x09#8, 0x00#8, 0x31#8, 0x32#8, 0xF4#8, 0xFF#8] := by decide

theorem test_retract_empty : shown (step (start [requestRetract []])) =
    some ([0x51#8, 0x78#8, 0xA0#8, 0x00#8, 0x00#8, 0x00#8, 0x00#8, 0xFF#8], [.ok], 0x01#8) := by decide

theorem test_retract_10 : shown (step (start [requestRetract [0x10#8]])) =
    some ([0x51#8, 0x78#8, 0xA0#8, 0x00#8, 0x01#8, 0x00#8, 0x10#8, 0x70#8, 0xFF#8], [.ok], 0x01#8) := by decide

theorem test_feed_50 : shown (step (start [requestFeed 0x50#8])) =
    some ([0x51#8, 0x78#8, 0xA1#8, 0x00#8, 0x01#8, 0x00#8, 0x50#8, 0xB7#8, 0xFF#8], [.ok], 0x01#8) := by decide

theorem test_draw_two_bytes : shown (step (start [requestDraw [0xFF#8, 0x0F#8]])) =
    some ([0x51#8, 0x78#8, 0xA2#8, 0x00#8, 0x02#8, 0x00#8, 0xFF#8, 0x0F#8, 0xFA#8, 0xFF#8], [.ok], 0x01#8) := by
  decide +kernel

/-- F15 and X6: oversize, whatever input is there. -/
theorem test_draw_256_faults : shown (step (start [req 0x40A20100#32 [] []])) =
    some ([], [.invalidPayloadSize], 0x03#8) := by decide

theorem test_quality_03 : shown (step (start [requestQuality 0x03#8])) =
    some ([0x51#8, 0x78#8, 0xA4#8, 0x00#8, 0x01#8, 0x00#8, 0x03#8, 0x09#8, 0xFF#8], [.ok], 0x01#8) := by decide

/-- F19: an out-of-range value is not checked. -/
theorem test_quality_00 : shown (step (start [requestQuality 0x00#8])) =
    some ([0x51#8, 0x78#8, 0xA4#8, 0x00#8, 0x01#8, 0x00#8, 0x00#8, 0x00#8, 0xFF#8], [.ok], 0x01#8) := by decide

theorem test_energy_FF : shown (step (start [requestEnergy 0xFF#8])) =
    some ([0x51#8, 0x78#8, 0xAF#8, 0x00#8, 0x01#8, 0x00#8, 0xFF#8, 0xF3#8, 0xFF#8], [.ok], 0x01#8) := by decide

theorem test_mode_01 : shown (step (start [requestMode 0x01#8])) =
    some ([0x51#8, 0x78#8, 0xBE#8, 0x00#8, 0x01#8, 0x00#8, 0x01#8, 0x07#8, 0xFF#8], [.ok], 0x01#8) := by decide

/-! ## Row packer (vectors T1 to T12, P1 to P19) -/

theorem test_threshold : [bitOf 0#8 0#8 0#8 255#8, bitOf 255#8 255#8 255#8 255#8, bitOf 0#8 0#8 0#8 0#8,
      bitOf 127#8 127#8 127#8 129#8, bitOf 127#8 127#8 127#8 128#8, bitOf 128#8 127#8 127#8 255#8,
      bitOf 127#8 128#8 127#8 255#8, bitOf 127#8 127#8 128#8 255#8, bitOf 0#8 0#8 0#8 129#8,
      bitOf 0#8 0#8 0#8 127#8, bitOf 255#8 0#8 0#8 255#8, bitOf 100#8 100#8 100#8 200#8] =
    [true, false, false, true, false, false, false, false, true, false, false, true] := by decide

/-- P17 and X8: a partial byte, and the ignored `cmd`. -/
theorem test_pack_12 : shown (step (start [req 0x60FF000C#32 [] (ink [true, false, false, false, false, false, false, false, true, false, false, false])])) =
    some ([0x80#8, 0x08#8], [.ok], 0x01#8) := by decide

/-- P8: a row of width 0. -/
theorem test_pack_0 : shown (step (start [requestPack []])) = some ([], [.ok], 0x01#8) := by decide

/-- P4, P5, P6, P9, P10, P11, P12, P14, P15, P18, in both orders. -/
theorem test_pack_vectors : ([[true, false, false, false, false, false, false, false],
      [false, false, false, false, false, false, false, true], [true, false, true, false, true, false, true, false],
      [true, true, true, true, true, true, true, true, true], [true, true, true, true, true, true, true, true, false],
      [false, false, false, false, false, false, false, false, true], [true], [true, true, true], [true, false, true],
      [true, false, false, true, false, true, false, false, true, true, false]].map fun l =>
        ((packLoop .msbFirst l).finish.out, (packLoop .lsbFirst l).finish.out)) =
    [([0x80#8], [0x01#8]), ([0x01#8], [0x80#8]), ([0xAA#8], [0x55#8]), ([0xFF#8, 0x01#8], [0xFF#8, 0x80#8]),
      ([0xFF#8, 0x00#8], [0xFF#8, 0x00#8]), ([0x00#8, 0x01#8], [0x00#8, 0x80#8]), ([0x01#8], [0x80#8]),
      ([0x07#8], [0xE0#8]), ([0x05#8], [0xA0#8]), ([0x94#8, 0x06#8], [0x29#8, 0x60#8])] := by decide

/-! ## Faults, reset and the host's sequences -/

/-- X4: the request word is checked before the length. -/
theorem test_illegal_before_oversize : shown (step (start [req 0x41000100#32 [] []])) =
    some ([], [.illegalOperation], 0x05#8) := by decide

/-- A short input waits; what is shown does not change. -/
theorem test_crc8_waits : shown (step (start [req 0x20000002#32 [0x01#8] []])) =
    some ([], [], 0x01#8) := by decide

/-- A faulted request leaves its input on `DIN`; the next request's input replaces it (rules R184, R229). -/
theorem test_fault_consumes_nothing : (State.raise .invalidPayloadSize ((start [req 0x40A20100#32 [0x07#8] []]).accept 0xA2#8 256#16)).din = [0x07#8] := by decide

/-- Only the final byte is marked `last` (rule R34). -/
theorem test_markLast : (markLast [1#8, 2#8, 3#8]).map OutByte.last = [false, false, true] := by decide

/-- The pseudo-operations expand as rule R82 says, on program B's raster of two rows: the word of each request. -/
theorem test_printRaster_words : (printRaster [ink [true, false, true, false, true, false, true, false, true, true, false, false],
      ink [false, false, false, false, true, true, true, true, false, false, false, true]]).map Request.word =
    [0x6000000C#32, 0x40A20002#32, 0x40A10001#32, 0x6000000C#32, 0x40A20002#32, 0x40A10001#32, 0x40A10001#32] := by
  decide

/-- Program A's requests, in the order of rule R223. -/
theorem test_connectCfg : (connectCfg 0xFF#8 3#8 1#8).map (fun r => (r.word, r.din)) =
    [(0x40AF0001#32, [0xFF#8]), (0x40A40001#32, [0x03#8]), (0x40BE0001#32, [0x01#8])] := by decide

/-! ## Witnesses: a state and operands that meet the hypotheses of each statement that has some -/

/-- The invariant holds of any state that holds the constant table and is between operations. -/
theorem inv_of_constant_table {s : State} (h : s.table = []) (hp : s.ph = .done) (hn : s.nb = 0#4) : s.Inv := by
  refine ⟨by rw [h]; rfl, hp, by rw [hn]; decide, fun _ i => ?_⟩
  rw [State.tableRead, h, Memory.read_nil, Memory.unlisted_toNat]

theorem start_inv (rs : List Request) : (start rs).Inv := inv_of_constant_table rfl rfl rfl

/-- DecodeOfEncode: one operation of each kind at a bound of its fields. -/
theorem test_hyp_wellFormed : [Instr.tgen 0xFF#8 0xFFFF#16, .crc8 0#8 0xFFFF#16, .fenc 0xA3#8 0xFFFF#16, .pack 0xFF#8 0#16,
      .retract 0#16, .feed 0xFFFF#16, .draw 255#16, .quality 0#16, .energy 256#16, .mode 1#16].map Instr.wellFormed =
    [true, true, true, true, true, true, true, true, true, true] := by decide

/-- EncodeOfDecode, StepRunsDecodedRequest. -/
theorem test_hyp_decoded : (start [requestFeed 0x50#8]).Accepting ∧
    (start [requestFeed 0x50#8]).pending = requestFeed 0x50#8 :: [] ∧
    decode (requestFeed 0x50#8).word = .ok (.feed 1#16) := ⟨⟨rfl, rfl⟩, rfl, by decide⟩

/-- AssemblerRequestsDecode: both bounds of the length. -/
theorem test_hyp_expressible : ([] : List Byte).length ≤ 65535 ∧ (List.replicate 65535 0#8).length ≤ 65535 ∧
    (List.replicate 65535 inkK).length ≤ 65535 :=
  ⟨Nat.zero_le _, Nat.le_of_eq List.length_replicate, Nat.le_of_eq List.length_replicate⟩

/-- IdleWithoutRequest. -/
theorem test_hyp_idle : State.reset.Accepting ∧ State.reset.pending = [] := ⟨⟨rfl, rfl⟩, rfl⟩

/-- IllegalOperationRaisedExactly, FaultPriority, first clause: the least reserved `op`, and `rsv` alone. -/
theorem test_hyp_illegal : 4 ≤ (reqOp 0x80000000#32).toNat ∧ ¬ LegalWord 0x80000000#32 ∧
    reqRsv 0x01000000#32 ≠ 0#5 ∧ ¬ LegalWord 0x01000000#32 := by
  refine ⟨by decide, fun h => ?_, by decide, fun h => ?_⟩
  · exact absurd h.1 (by decide)
  · exact absurd h.2 (by decide)

/-- IllegalOperationRaisedExactly, second clause: the greatest legal `op`. -/
theorem test_hyp_legal : ¬ (4 ≤ (reqOp 0x60000000#32).toNat ∨ reqRsv 0x60000000#32 ≠ 0#5) := by decide

/-- FaultPriority, second clause: the least oversize length. -/
theorem test_hyp_oversize_word : LegalWord 0x40A20100#32 ∧ reqOp 0x40A20100#32 = 2#3 ∧ 255 < (reqLen 0x40A20100#32).toNat :=
  ⟨⟨by decide, by decide⟩, by decide, by decide⟩

/-- FaultPriority, third clause: the greatest length that is not oversize, supplied. -/
theorem test_hyp_supplied : LegalWord 0x40A200FF#32 ∧ ¬ (reqOp 0x40A200FF#32 = 2#3 ∧ 255 < (reqLen 0x40A200FF#32).toNat) ∧
    (requestDraw (List.replicate 255 0#8)).Supplied :=
  ⟨⟨by decide +kernel, by decide +kernel⟩, by decide +kernel, fun _ => by decide +kernel, fun h => absurd h (by decide +kernel)⟩

/-- OversizePayloadFaults, both clauses at their bound; FrameEncoderLeavesTheRest, CommandsAreFenc. -/
theorem test_hyp_frame_bounds : frameOf (.draw 256#16) = some (0xA2#8, 256#16) ∧ 255 < (256#16).toNat ∧
    frameOf (.fenc 0xFF#8 255#16) = some (0xFF#8, 255#16) ∧ (255#16).toNat ≤ 255 := by decide

/-- ShortInputWaits: one element short, for each clause. -/
theorem test_hyp_short : (start [requestCrc8 []]).offered.din.length < (1#16).toNat ∧
    (start [requestPack []]).offered.pin.length < (1#16).toNat ∧ (1#16).toNat ≤ 255 ∧
    frameOf (.mode 1#16) = some (0xBE#8, 1#16) := by decide

/-- TgenAfterResetKeepsTable. -/
theorem test_hyp_tgen : (start [requestTgen]).Inv ∧ (start [requestTgen]).ready = true ∧
    ∃ t, exec (.tgen 0#8 0#16) (start [requestTgen]) = .next t := ⟨start_inv _, rfl, _, rfl⟩

/-- Crc8EmitsChecksum: no byte, and exactly the announced bytes. -/
theorem test_hyp_crc8 : (0#16).toNat ≤ (start []).offered.din.length ∧
    (2#16).toNat ≤ (start [requestCrc8 [1#8, 2#8]]).offered.din.length := by decide

/-- ChecksumResidue: the table after reset. -/
theorem test_hyp_constant_table : ∀ i : Byte, Memory.read [] i.toNat = tableEntry i := Memory.unlisted_toNat

/-- CrcUnitLeavesTheRest, PackLeavesTheRest, LastMarksFinalByte: the operations answer. -/
theorem test_hyp_answers : (∃ t, exec (.tgen 0#8 0#16) State.reset = .next t) ∧
    (∃ t, exec (.crc8 0#8 0#16) State.reset = .next t) ∧ (∃ t, exec (.pack 0#8 0#16) State.reset = .next t) ∧
    ∃ t, exec (.feed 0#16) State.reset = .next t := ⟨⟨_, rfl⟩, ⟨_, rfl⟩, ⟨_, rfl⟩, _, rfl⟩

/-- FrameLayout, FrameChecksumIsCrc8OfPayload: the longest payload. -/
theorem test_hyp_longest_payload : frameOf (.draw 255#16) = some (0xA2#8, 255#16) ∧ (255#16).toNat ≤ 255 ∧
    (255#16).toNat ≤ (start [requestDraw (List.replicate 255 7#8)]).offered.din.length := by decide +kernel

/-- FrameChecksumIsCrc8OfPayload: two states with the same payload and table. -/
theorem test_hyp_same_payload : (start [requestCrc8 [9#8]]).offered.din.take (1#16).toNat =
      (start [requestFeed 9#8]).offered.din.take (1#16).toNat ∧
    (1#16).toNat ≤ (start [requestCrc8 [9#8]]).offered.din.length ∧
    ∀ a : Byte, (start [requestCrc8 [9#8]]).tableRead a = (start [requestFeed 9#8]).tableRead a :=
  ⟨by decide, by decide, fun _ => rfl⟩

/-- FrameLengthFromByteFour: an operation that emits. -/
theorem test_hyp_frame_emitted : ∃ t, exec (.retract 0#16) State.reset = .next t ∧ t.dout ≠ State.reset.dout :=
  ⟨_, rfl, by decide⟩

/-- OneByteCommandFrames. -/
theorem test_hyp_one_byte : (start [requestFeed 0x50#8]).Inv ∧ (start [requestFeed 0x50#8]).ready = true ∧
    (start [requestFeed 0x50#8]).offered.din = 0x50#8 :: [] := ⟨start_inv _, rfl, rfl⟩

/-- PackClosedForm, PackClearsAccumulator, PackUniformRows: a row of a full group, and one with a partial byte. -/
theorem test_hyp_pack : (8#16).toNat ≤ (start [requestPack (List.replicate 8 inkK)]).offered.pin.length ∧
    (9#16).toNat ≤ (start [requestPack (List.replicate 9 dotW)]).offered.pin.length ∧ (8#16).toNat % 8 = 0 := by decide

/-- PackUniformRows: every pixel painted, and none. -/
theorem test_hyp_uniform :
    (∀ w ∈ (start [requestPack (List.replicate 8 inkK)]).offered.pin.take (8#16).toNat, paintedWord w = true) ∧
    ∀ w ∈ (start [requestPack (List.replicate 9 dotW)]).offered.pin.take (9#16).toNat, paintedWord w = false := by
  constructor <;> intro w hw
  · rw [List.eq_of_mem_replicate (n := 8) (a := inkK) (List.mem_of_mem_take hw)]
    decide
  · rw [List.eq_of_mem_replicate (n := 9) (a := dotW) (List.mem_of_mem_take hw)]
    decide

/-- PackedRowDraws: a row of twelve painted pixels and the bytes PACK emits for it (rule R160). -/
theorem test_hyp_packed_row : (12#16).toNat ≤ 2040 ∧
    (12#16).toNat ≤ (start [requestPack (List.replicate 12 inkK)]).offered.pin.length ∧
    ∃ t, exec (.pack 0#8 12#16) (start [requestPack (List.replicate 12 inkK)]) = .next t ∧
      (start [requestDraw [0xFF#8, 0x0F#8]]).offered.din = (t.dout.drop 0).map OutByte.byte :=
  ⟨by decide, by decide, _, rfl, by decide⟩

/-- DrawWidthLimit: the widths on either side of the limit. -/
theorem test_hyp_draw_width : 2040 < (2041#16).toNat ∧ (2040#16).toNat ≤ 2040 ∧
    ((2041#16).toNat + 7) / 8 ≤ (start [requestDraw (List.replicate 256 0#8)]).offered.din.length := by decide +kernel

/-- ResetSequenceEndsInResetState, ReadyAndWaitingRequests: a reset requested between operations, over a table that differs. -/
theorem test_hyp_reset : ({ start [requestTgen] with rst := true, table := [(3, 0#8)] } : State).rst = true ∧
    ({ start [requestTgen] with rst := true, table := [(3, 0#8)] } : State).ph = .done ∧
    ({ start [requestTgen] with rst := true, table := [(3, 0#8)] } : State).table.wf = true ∧
    ∃ t, step ({ start [requestTgen] with rst := true, table := [(3, 0#8)] } : State) = .next t :=
  ⟨rfl, rfl, by decide +kernel, _, rfl⟩

/-- ReadyAndWaitingRequests: reset in progress with a request offered, and a state that takes requests. -/
theorem test_hyp_not_ready : ({ start [requestTgen] with ready := false } : State).rst = false ∧
    ({ start [requestTgen] with ready := false } : State).ready = false ∧ (start [requestTgen]).Accepting ∧
    ∃ t, step (start [requestTgen]) = .next t := ⟨rfl, rfl, ⟨rfl, rfl⟩, _, rfl⟩

/-- ResetMidFrameRefused. -/
theorem test_hyp_mid_frame : ({ State.reset with rst := true, ph := .payload } : State).rst = true ∧
    ({ State.reset with rst := true, ph := .payload } : State).ph ≠ .done := by decide

/-- StepKeepsInvariant, NothingIsStuck, FlagsStickyAndNeverRead, OutputAndResponsesInOrder. -/
theorem test_hyp_step : (start [requestFeed 0#8]).Inv ∧ (start [requestFeed 0#8]).rst = false ∧
    ∃ t, step (start [requestFeed 0#8]) = .next t := ⟨start_inv _, rfl, _, rfl⟩

/-- FlagsStickyAndNeverRead: a step that takes a reset. -/
theorem test_hyp_step_resets : ∃ t, step ({ State.reset with rst := true, errOp := true } : State) = .next t := ⟨_, rfl⟩

/-- WorkingRegistersUnobservable: two states that differ in working registers only. -/
theorem test_hyp_working : (start [requestFeed 0#8]).withoutWorking =
      ({ start [requestFeed 0#8] with crc := 0x55#8, acc := 0x55#8, nb := 3#4, ph := .eof } : State).withoutWorking ∧
    (start [requestFeed 0#8]).rst = false ∧ ∃ t, step (start [requestFeed 0#8]) = .next t := ⟨rfl, rfl, _, rfl⟩

/-- WorkingRegistersUnobservable: a step that takes a reset, with `PH` at `DONE` in both states. -/
theorem test_hyp_working_resets : ({ State.reset with rst := true } : State).withoutWorking =
      ({ State.reset with rst := true, crc := 0x55#8, nb := 3#4 } : State).withoutWorking ∧
    ({ State.reset with rst := true, crc := 0x55#8, nb := 3#4 } : State).ph = .done ∧
    ∃ t, step ({ State.reset with rst := true } : State) = .next t := ⟨rfl, rfl, _, rfl⟩

/-- NothingIsStuck: a request whose input is supplied, and an oversize one with no input. -/
theorem test_hyp_answered : (start [requestFeed 0#8]).Accepting ∧ (requestFeed 0#8).Supplied ∧
    (start [req 0x40A20100#32 [] []]).Accepting ∧ ¬ (req 0x40A20100#32 [] []).Dutiful := by
  unfold Request.Dutiful OversizeWord LegalWord State.Accepting Request.Supplied
  decide

/-- A PACK of one painted pixel leaves `ACC` and `NB` cleared (rules R23, R24). -/
theorem test_pack_clears : (packLoop .msbFirst [true]).finish = { acc := 0x00#8, nb := 0#4, out := [0x01#8] } := by decide

/-- OperationsArePure: two states with different histories and flags. -/
theorem test_hyp_pure : (start [requestFeed 0#8]).offered =
      ({ start [requestFeed 0#8] with errOp := true, rsp := [.illegalOperation] } : State).offered ∧
    (∀ a : Byte, (start [requestFeed 0#8]).tableRead a =
      ({ start [requestFeed 0#8] with errOp := true, rsp := [.illegalOperation] } : State).tableRead a) ∧
    ∃ t, exec (.feed 1#16) (start [requestFeed 0#8]) = .next t := ⟨rfl, fun _ => rfl, _, rfl⟩

/-- DutifulHostSeesNoFault: a FENC at the greatest length, and an operation with no limit. -/
theorem test_hyp_dutiful : ∀ r ∈ (start [requestDraw (List.replicate 255 0#8), requestCrc8 (List.replicate 256 0#8)]).pending,
    r.Dutiful := by
  intro r hr
  simp only [start, List.mem_cons, List.not_mem_nil, or_false] at hr
  rcases hr with rfl | rfl
  · exact ⟨⟨by decide +kernel, by decide +kernel⟩, fun h => absurd h.2.2 (by decide +kernel)⟩
  · exact ⟨⟨by decide +kernel, by decide +kernel⟩, fun h => absurd h.2.1 (by decide +kernel)⟩

end Sys2Proof.Tests
end

section
/-! PROOFS of the family 00_scope.md. First what each shared meaning answers in each of its cases, as equations; then that the
answer to a request depends on nothing but the request, its input and the table (rule R11); then the step around an operation. -/

namespace Sys2Proof.Machine

/-! ### What each meaning answers, one equation per case -/

theorem execCrc8_of_short {len : Count} {s : State} (h : s.offered.din.length < len.toNat) (cmd : Byte) :
    execCrc8 cmd len s = .next s :=
  ((execCrc8_cases cmd len s).resolve_right fun hs => absurd hs.1 (Nat.not_le_of_lt h)).2

theorem execCrc8_of_supplied {len : Count} {s : State} (h : len.toNat ≤ s.offered.din.length) (cmd : Byte) :
    execCrc8 cmd len s =
      .next (((((s.accept cmd len).consumeDin len).setChecksum (checksum s.table (s.dinOperand len)) len).emit
        [checksum s.table (s.dinOperand len)]).respond .ok) :=
  ((execCrc8_cases cmd len s).resolve_left fun hs => absurd h (Nat.not_le_of_lt hs.1)).2

theorem execPack_of_short {len : Count} {s : State} (h : s.offered.pin.length < len.toNat) (cmd : Byte) :
    execPack cmd len s = .next s :=
  ((execPack_cases cmd len s).resolve_right fun hs => absurd hs.1 (Nat.not_le_of_lt h)).2

theorem execPack_of_supplied {len : Count} {s : State} (h : len.toNat ≤ s.offered.pin.length) (cmd : Byte) {run : PackRun}
    (hrun : run = (packLoop Params.packOrder ((s.pinOperand len).map paintedWord)).finish) :
    execPack cmd len s =
      .next (((((s.accept cmd len).consumePin len).setPacker run.acc run.nb len).emit run.out).respond .ok) := by
  obtain ⟨_, run', hrun', he⟩ :=
    (execPack_cases cmd len s).resolve_left fun hs => absurd h (Nat.not_le_of_lt hs.1)
  rw [he, hrun', hrun]

theorem encodeFrame_of_oversize {len : Count} (h : 255 < len.toNat) (cmd : Byte) (s : State) :
    encodeFrame cmd len s = .next ((s.accept cmd len).raise .invalidPayloadSize) := by
  rcases encodeFrame_cases cmd len s with ⟨_, he⟩ | ⟨hle, _⟩ | ⟨hle, _⟩
  · exact he
  · exact absurd h (Nat.not_lt_of_le hle)
  · exact absurd h (Nat.not_lt_of_le hle)

theorem encodeFrame_of_short {len : Count} {s : State} (hle : len.toNat ≤ 255) (h : s.offered.din.length < len.toNat)
    (cmd : Byte) : encodeFrame cmd len s = .next s := by
  rcases encodeFrame_cases cmd len s with ⟨hlt, _⟩ | ⟨_, _, he⟩ | ⟨_, hs, _⟩
  · exact absurd hlt (Nat.not_lt_of_le hle)
  · exact he
  · exact absurd h (Nat.not_lt_of_le hs)

theorem encodeFrame_of_supplied {len : Count} {s : State} (hle : len.toNat ≤ 255) (h : len.toNat ≤ s.offered.din.length)
    (cmd : Byte) : encodeFrame cmd len s =
      .next ((((((s.accept cmd len).consumeDin len).setChecksum (checksum s.table (s.dinOperand len)) len).emit
        (frameBytes cmd (len.setWidth 8) (s.dinOperand len) (checksum s.table (s.dinOperand len)))).setPhase
          .done).respond .ok) := by
  rcases encodeFrame_cases cmd len s with ⟨hlt, _⟩ | ⟨_, hs, _⟩ | ⟨_, _, he⟩
  · exact absurd hlt (Nat.not_lt_of_le hle)
  · exact absurd h (Nat.not_le_of_lt hs)
  · exact he

/-! ### What an operation reads -/

/-- The running value depends on the table through its 256 entries alone. -/
theorem crcFrom_congr {m m' : Memory} (h : ∀ a : Byte, m.read a.toNat = m'.read a.toNat) (crc : Byte) (p : List Byte) :
    crcFrom m crc p = crcFrom m' crc p := by
  induction p generalizing crc with
  | nil => rfl
  | cons d p ih => rw [crcFrom_cons, crcFrom_cons, crcStep, crcStep, h, ih]

theorem State.dinOperand_congr {s u : State} (h : s.offered = u.offered) (len : Count) :
    s.dinOperand len = u.dinOperand len := by
  rw [State.dinOperand, h, State.dinOperand]

theorem State.pinOperand_congr {s u : State} (h : s.offered = u.offered) (len : Count) :
    s.pinOperand len = u.pinOperand len := by
  rw [State.pinOperand, h, State.pinOperand]

/-- The checksum of the request's bytes is the same in two states that offer the same request over the same table. -/
theorem State.checksum_dinOperand_congr {s u : State} (ho : s.offered = u.offered)
    (ht : ∀ a : Byte, s.tableRead a = u.tableRead a) (len : Count) :
    checksum s.table (s.dinOperand len) = checksum u.table (u.dinOperand len) := by
  rw [State.dinOperand_congr ho, checksum, checksum, crcFrom_congr ht]

/-! ### What an operation appends -/

/-- The outcome `o` of an operation performed on `s` is a next state with the transfers `out` appended to the record of `DOUT` and
the responses `rs` to the record of `RSP` (rules R54, R59). -/
def State.Appends (s : State) (o : Host.Outcome State Fault Refusal) (out : List OutByte) (rs : List Rsp) : Prop :=
  ∃ t, o = .next t ∧ t.dout = s.dout ++ out ∧ t.rsp = s.rsp ++ rs

/-- A request that waits appends nothing. -/
theorem State.appends_nil (s : State) : s.Appends (.next s) [] [] :=
  ⟨s, rfl, (List.append_nil _).symm, (List.append_nil _).symm⟩

/-- The operation `f` appends the same transfers and the same responses in `s` as in `u`. -/
def SameAnswer (f : State → Host.Outcome State Fault Refusal) (s u : State) : Prop :=
  ∃ out rs, s.Appends (f s) out rs ∧ u.Appends (f u) out rs

/-- A request that waits in both states appends nothing in either. -/
theorem sameAnswer_of_wait {f : State → Host.Outcome State Fault Refusal} {s u : State} (hs : f s = .next s)
    (hu : f u = .next u) : SameAnswer f s u :=
  ⟨[], [], hs ▸ s.appends_nil, hu ▸ u.appends_nil⟩

theorem execTgen_sameAnswer (cmd : Byte) (len : Count) (s u : State) : SameAnswer (execTgen cmd len) s u :=
  ⟨[], [.ok], ⟨_, rfl, by simp, by simp⟩, ⟨_, rfl, by simp, by simp⟩⟩

section
variable {s u : State} (ho : s.offered = u.offered)
include ho

theorem execPack_sameAnswer (cmd : Byte) (len : Count) : SameAnswer (execPack cmd len) s u := by
  rcases Nat.lt_or_ge s.offered.pin.length len.toNat with hs | hs
  · exact sameAnswer_of_wait (execPack_of_short hs cmd) (execPack_of_short (ho ▸ hs) cmd)
  · have hu := execPack_of_supplied (s := u) (ho ▸ hs) cmd rfl
    rw [← State.pinOperand_congr ho] at hu
    exact ⟨markLast (packLoop Params.packOrder ((s.pinOperand len).map paintedWord)).finish.out, [.ok],
      ⟨_, execPack_of_supplied hs cmd rfl, by simp, by simp⟩, ⟨_, hu, by simp, by simp⟩⟩

variable (ht : ∀ a : Byte, s.tableRead a = u.tableRead a)
include ht

theorem execCrc8_sameAnswer (cmd : Byte) (len : Count) : SameAnswer (execCrc8 cmd len) s u := by
  rcases Nat.lt_or_ge s.offered.din.length len.toNat with hs | hs
  · exact sameAnswer_of_wait (execCrc8_of_short hs cmd) (execCrc8_of_short (ho ▸ hs) cmd)
  · have hu := execCrc8_of_supplied (s := u) (ho ▸ hs) cmd
    rw [← State.checksum_dinOperand_congr ho ht] at hu
    exact ⟨markLast [checksum s.table (s.dinOperand len)], [.ok],
      ⟨_, execCrc8_of_supplied hs cmd, by simp, by simp⟩, ⟨_, hu, by simp, by simp⟩⟩

theorem encodeFrame_sameAnswer (cmd : Byte) (len : Count) : SameAnswer (encodeFrame cmd len) s u := by
  rcases Nat.lt_or_ge 255 len.toNat with hlen | hlen
  · exact ⟨[], [.invalidPayloadSize], ⟨_, encodeFrame_of_oversize hlen cmd s, by simp, by simp [BlockFault.response]⟩,
      ⟨_, encodeFrame_of_oversize hlen cmd u, by simp, by simp [BlockFault.response]⟩⟩
  rcases Nat.lt_or_ge s.offered.din.length len.toNat with hs | hs
  · exact sameAnswer_of_wait (encodeFrame_of_short hlen hs cmd) (encodeFrame_of_short hlen (ho ▸ hs) cmd)
  · have hu := encodeFrame_of_supplied (s := u) hlen (ho ▸ hs) cmd
    rw [← State.checksum_dinOperand_congr ho ht, ← State.dinOperand_congr ho] at hu
    exact ⟨markLast (frameBytes cmd (len.setWidth 8) (s.dinOperand len) (checksum s.table (s.dinOperand len))), [.ok],
      ⟨_, encodeFrame_of_supplied hlen hs cmd, by simp, by simp⟩, ⟨_, hu, by simp, by simp⟩⟩

/-- Every operation gives the same answer over the same request and the same table (rule R11). -/
theorem exec_sameAnswer (i : Instr) : SameAnswer (exec i) s u := by
  rcases exec_shapes i with ⟨c, n, rfl⟩ | ⟨c, n, rfl⟩ | ⟨c, n, rfl⟩ | ⟨c, n, hf⟩
  · exact execTgen_sameAnswer c n s u
  · exact execCrc8_sameAnswer ho ht c n
  · exact execPack_sameAnswer ho c n
  · rw [show exec i = encodeFrame c n from funext (exec_of_frameOf hf)]
    exact encodeFrame_sameAnswer ho ht c n

end

/-- Settles O41: the answer is read off the offered request and the entries of the table. -/
theorem operationsArePure : Obligations.OperationsArePure := by
  intro i s u t ho ht hst
  obtain ⟨out, rs, ⟨t', hst', hdout, hrsp⟩, ⟨v, huv, hdout', hrsp'⟩⟩ := exec_sameAnswer ho ht i
  obtain rfl : t = t' := Host.Outcome.next.inj (hst.symm.trans hst')
  exact ⟨v, out, rs, huv, hdout, hdout', hrsp, hrsp'⟩

/-! ### The step around an operation -/

/-- Settles O5: the step takes the branch of an accepted word, and that branch is the operation itself. -/
theorem stepRunsDecodedRequest : Obligations.StepRunsDecodedRequest := by
  rintro s r rs i ⟨hrst, hready⟩ hp hi
  simp [step, hrst, hready, hp, hi]

/-- Settles O6: the step takes its idle branch (log entry 9). -/
theorem idleWithoutRequest : Obligations.IdleWithoutRequest := by
  rintro s ⟨hrst, hready⟩ hp
  simp [step, hrst, hready, hp]

end Sys2Proof.Machine
end

section
/-! PROOFS of the family 10_state.md. First what one operation and one step can do to the state, said once as a closed list of state
updates whose parameters are read off the request and the table; then each statement is a property every update on the list has. -/

namespace Sys2Proof.Machine

/-! ### What one operation can do -/

/-- The updates an operation can make to the state. The parameters are the request's fields and the values computed from its input
and the table. PACK always leaves 0 in `ACC` and `NB` (rules R23, R24, log entry 11), so of its run only the bytes are named. -/
inductive OpEffect : (State → State) → Prop
  /-- The request waits for its input. -/
  | wait : OpEffect id
  /-- The request is accepted and faults (rule R184). -/
  | fault (g : BlockFault) (c : Byte) (n : Count) : OpEffect fun s => (s.accept c n).raise g
  /-- TGEN completes (rule R102). -/
  | tgen (c : Byte) (n : Count) : OpEffect fun s => ((s.accept c n).setTable s.table.generate).respond .ok
  /-- CRC8 completes with checksum `k` (rule R103). -/
  | crc8 (c : Byte) (n : Count) (k : Byte) :
    OpEffect fun s => ((((s.accept c n).consumeDin n).setChecksum k n).emit [k]).respond .ok
  /-- An operation that encodes a frame completes with checksum `k` and the frame `bytes` (rule R123). -/
  | frame (c : Byte) (n : Count) (k : Byte) (bytes : List Byte) :
    OpEffect fun s => (((((s.accept c n).consumeDin n).setChecksum k n).emit bytes).setPhase .done).respond .ok
  /-- PACK completes with the row `bytes` (rule R156). -/
  | pack (c : Byte) (n : Count) (bytes : List Byte) :
    OpEffect fun s => ((((s.accept c n).consumePin n).setPacker 0x00#8 0#4 n).emit bytes).respond .ok

/-- At the end of a row `ACC` is 0x00, whether the last byte was full or partly filled (rule R23). -/
theorem packLoop_finish_acc (o : PackOrder) (bits : List Bool) : (packLoop o bits).finish.acc = 0x00#8 := by
  unfold PackRun.finish
  split
  · next h => exact (packLoop_clear o bits).2 h
  · rfl

/-- PACK with its input there, in terms of the bytes it emits alone. -/
theorem execPack_of_supplied_cleared {len : Count} {s : State} (h : len.toNat ≤ s.offered.pin.length) (cmd : Byte) :
    execPack cmd len s =
      .next (((((s.accept cmd len).consumePin len).setPacker 0x00#8 0#4 len).emit
        (packRow Params.packOrder (s.pinOperand len))).respond .ok) := by
  rw [execPack_of_supplied h cmd rfl, packLoop_finish_acc, PackRun.finish_nb, packRow]

/-- The outcome `f` of an operation in `s` is one of the listed updates, and the same one in every state that offers the same request
over the same table. -/
def HasEffectAt (f : State → Host.Outcome State Fault Refusal) (s : State) : Prop :=
  ∃ e, OpEffect e ∧ ∀ u : State, u.offered = s.offered → (∀ a : Byte, u.tableRead a = s.tableRead a) → f u = .next (e u)

theorem execCrc8_effect (cmd : Byte) (len : Count) (s : State) : HasEffectAt (execCrc8 cmd len) s := by
  rcases Nat.lt_or_ge s.offered.din.length len.toNat with hs | hs
  · exact ⟨_, .wait, fun u ho _ => execCrc8_of_short (ho ▸ hs) cmd⟩
  · refine ⟨_, .crc8 cmd len (checksum s.table (s.dinOperand len)), fun u ho ht => ?_⟩
    rw [execCrc8_of_supplied (ho ▸ hs), State.checksum_dinOperand_congr ho ht]

theorem execPack_effect (cmd : Byte) (len : Count) (s : State) : HasEffectAt (execPack cmd len) s := by
  rcases Nat.lt_or_ge s.offered.pin.length len.toNat with hs | hs
  · exact ⟨_, .wait, fun u ho _ => execPack_of_short (ho ▸ hs) cmd⟩
  · refine ⟨_, .pack cmd len (packRow Params.packOrder (s.pinOperand len)), fun u ho _ => ?_⟩
    rw [execPack_of_supplied_cleared (ho ▸ hs), State.pinOperand_congr ho]

theorem encodeFrame_effect (cmd : Byte) (len : Count) (s : State) : HasEffectAt (encodeFrame cmd len) s := by
  rcases Nat.lt_or_ge 255 len.toNat with hlen | hlen
  · exact ⟨_, .fault .invalidPayloadSize cmd len, fun u _ _ => encodeFrame_of_oversize hlen cmd u⟩
  rcases Nat.lt_or_ge s.offered.din.length len.toNat with hs | hs
  · exact ⟨_, .wait, fun u ho _ => encodeFrame_of_short hlen (ho ▸ hs) cmd⟩
  · refine ⟨_, .frame cmd len (checksum s.table (s.dinOperand len))
      (frameBytes cmd (len.setWidth 8) (s.dinOperand len) (checksum s.table (s.dinOperand len))), fun u ho ht => ?_⟩
    rw [encodeFrame_of_supplied hlen (ho ▸ hs), State.checksum_dinOperand_congr ho ht, State.dinOperand_congr ho]

/-- Every operation does one of the listed things. -/
theorem exec_effect (i : Instr) (s : State) : HasEffectAt (exec i) s := by
  rcases exec_shapes i with ⟨c, n, rfl⟩ | ⟨c, n, rfl⟩ | ⟨c, n, rfl⟩ | ⟨c, n, hf⟩
  · exact ⟨_, .tgen c n, fun _ _ _ => rfl⟩
  · exact execCrc8_effect c n s
  · exact execPack_effect c n s
  · rw [show exec i = encodeFrame c n from funext (exec_of_frameOf hf)]
    exact encodeFrame_effect c n s

/-- What an operation answers is a listed update of the state it was performed on. -/
theorem effect_of_exec {i : Instr} {s t : State} (h : exec i s = .next t) : ∃ e, OpEffect e ∧ t = e s := by
  obtain ⟨e, he, hexec⟩ := exec_effect i s
  exact ⟨e, he, Host.Outcome.next.inj (h.symm.trans (hexec s rfl fun _ => rfl))⟩

/-! ### What one step can do -/

/-- What a step without a reset request can do: end a reset sequence, or what one operation can do. -/
inductive StepEffect : (State → State) → Prop
  /-- Steps 2 to 4 of the reset sequence (rule R210). -/
  | finishReset : StepEffect State.finishReset
  /-- What an operation can do (an illegal word faults, an idle block is one that waits). -/
  | op {e : State → State} (h : OpEffect e) : StepEffect e

/-- A step finds the same on the ports, in `READY` and in `TABLE` of both states. -/
structure State.SameControl (s u : State) : Prop where
  rst : u.rst = s.rst
  ready : u.ready = s.ready
  pending : u.pending = s.pending
  table : ∀ a : Byte, u.tableRead a = s.tableRead a

theorem State.SameControl.refl (s : State) : s.SameControl s := ⟨rfl, rfl, rfl, fun _ => rfl⟩

theorem step_of_rst {s : State} (hrst : s.rst = true) (hph : s.ph = .done) : step s = .next s.assertReset := by
  simp [step, State.takeReset, hrst, hph]

/-- A step that takes a reset request finds `PH` at `DONE` (rule R211, log entry 8). -/
theorem assertReset_of_step {s t : State} (hrst : s.rst = true) (h : step s = .next t) :
    s.ph = .done ∧ t = s.assertReset := by
  by_cases hph : s.ph = .done
  · exact ⟨hph, Host.Outcome.next.inj (h.symm.trans (step_of_rst hrst hph))⟩
  · simp [step, State.takeReset, hrst, hph] at h

theorem step_of_not_ready {s : State} (hrst : s.rst = false) (hready : s.ready = false) : step s = .next s.finishReset := by
  simp [step, hrst, hready]

theorem step_of_illegal {s : State} {r : Request} {rs : List Request} {x : DecodeError} (hacc : s.Accepting)
    (hp : s.pending = r :: rs) (hd : decode r.word = .error x) : step s = .next (s.takeIllegal r.word) := by
  obtain ⟨hrst, hready⟩ := hacc
  simp [step, hrst, hready, hp, hd]

/-- While the block takes requests, a step does what one operation can do. -/
theorem step_effect_of_accepting {s : State} (hacc : s.Accepting) :
    ∃ e, OpEffect e ∧ ∀ u : State, s.SameControl u → step u = .next (e u) := by
  have hu : ∀ u : State, s.SameControl u → u.Accepting := fun u h => ⟨h.rst.trans hacc.1, h.ready.trans hacc.2⟩
  match hp : s.pending with
  | [] => exact ⟨_, .wait, fun u h => idleWithoutRequest u (hu u h) (h.pending.trans hp)⟩
  | r :: rs =>
    match hd : decode r.word with
    | .error x =>
      exact ⟨_, .fault .illegalOperation (reqCmd r.word) (reqLen r.word),
        fun u h => step_of_illegal (hu u h) (h.pending.trans hp) hd⟩
    | .ok i =>
      obtain ⟨e, he, hexec⟩ := exec_effect i s
      refine ⟨e, he, fun u h => ?_⟩
      rw [stepRunsDecodedRequest u r rs i (hu u h) (h.pending.trans hp) hd]
      exact hexec u (by rw [State.offered, h.pending, State.offered]) h.table

/-- Every step without a reset request does one of the listed things. -/
theorem step_effect {s : State} (hrst : s.rst = false) :
    ∃ e, StepEffect e ∧ ∀ u : State, s.SameControl u → step u = .next (e u) := by
  cases hready : s.ready with
  | false => exact ⟨_, .finishReset, fun u h => step_of_not_ready (h.rst.trans hrst) (h.ready.trans hready)⟩
  | true =>
    obtain ⟨e, he, hstep⟩ := step_effect_of_accepting ⟨hrst, hready⟩
    exact ⟨e, .op he, hstep⟩

/-- What a step without a reset request answers is a listed update, and every state the step finds the same in takes it too. -/
theorem effect_of_step {s t : State} (hrst : s.rst = false) (h : step s = .next t) :
    ∃ e, StepEffect e ∧ t = e s ∧ ∀ u : State, s.SameControl u → step u = .next (e u) := by
  obtain ⟨e, he, hstep⟩ := step_effect hrst
  exact ⟨e, he, Host.Outcome.next.inj (h.symm.trans (hstep s (.refl s))), hstep⟩

/-! ### The invariant (rules R21, R24, R28) -/

/-- TGEN leaves every entry at its constant (rule R102). -/
theorem Memory.read_generate_toNat (m : Memory) (i : Byte) : m.generate.read i.toNat = tableEntry i := by
  rw [Memory.read_generate m i.isLt, Memory.unlisted_toNat]

theorem OpEffect.inv {e : State → State} (he : OpEffect e) {s : State} (h : s.Inv) : (e s).Inv := by
  obtain ⟨hwf, hph, hnb, htab⟩ := h
  cases he with
  | wait | fault | crc8 => exact ⟨hwf, hph, hnb, htab⟩
  | tgen => exact ⟨Memory.wf_generate hwf, hph, hnb, fun _ => Memory.read_generate_toNat s.table⟩
  | frame => exact ⟨hwf, rfl, hnb, htab⟩
  | pack => exact ⟨hwf, hph, Nat.zero_le 8, htab⟩

theorem State.inv_finishReset {s : State} (h : s.Inv) : s.finishReset.Inv := by
  obtain ⟨hwf, _⟩ := h
  exact ⟨Memory.wf_generate hwf, rfl, Nat.zero_le 8, fun _ => Memory.read_generate_toNat s.table⟩

theorem State.inv_assertReset {s : State} (h : s.Inv) : s.assertReset.Inv := by
  obtain ⟨hwf, hph, hnb, _⟩ := h
  exact ⟨Memory.wf_unspecified s.draws hwf, hph, hnb, fun h => absurd h Bool.false_ne_true⟩

/-- Settles O37: each update on the list keeps the invariant, and so do both steps of a reset. -/
theorem stepKeepsInvariant : Obligations.StepKeepsInvariant := by
  intro s t hinv hst
  cases hrst : s.rst with
  | true =>
    obtain ⟨_, rfl⟩ := assertReset_of_step hrst hst
    exact State.inv_assertReset hinv
  | false =>
    obtain ⟨e, he, rfl, _⟩ := effect_of_step hrst hst
    cases he with
    | finishReset => exact State.inv_finishReset hinv
    | op he => exact he.inv hinv

/-- Settles O36: the table after reset lists nothing, so every entry reads as its constant. -/
theorem invariantAtReset : Obligations.InvariantAtReset :=
  ⟨Memory.wf_nil, rfl, Nat.zero_le 8, fun _ => Memory.unlisted_toNat⟩

/-! ### The sticky flags (rule R30) -/

/-- The state with these values in its sticky flags. -/
def State.setFlags (a b : Bool) (s : State) : State := { s with errPsize := a, errOp := b }

theorem State.sameControl_setFlags (s : State) (a b : Bool) : s.SameControl (s.setFlags a b) := ⟨rfl, rfl, rfl, fun _ => rfl⟩

/-- The update `e` raises the flags `p` and `o`, which are those of the fault it responds with, and passes the flags on otherwise. -/
def Raises (e : State → State) (p o : Bool) : Prop :=
  ∀ s : State, (p = true ↔ (e s).rsp = s.rsp ++ [.invalidPayloadSize]) ∧
    (o = true ↔ (e s).rsp = s.rsp ++ [.illegalOperation]) ∧
    ∀ a b : Bool, e (s.setFlags a b) = (e s).setFlags (p || a) (o || b)

theorem BlockFault.setsPsize_iff (g : BlockFault) : g.setsPsize = true ↔ g.response = .invalidPayloadSize := by
  cases g <;> decide

theorem BlockFault.setsOp_iff (g : BlockFault) : g.setsOp = true ↔ g.response = .illegalOperation := by
  cases g <;> decide

/-- Every update on the list sets the flag of its fault and reads neither flag. -/
theorem StepEffect.raises {e : State → State} (he : StepEffect e) : ∃ p o, Raises e p o := by
  cases he with
  | finishReset => exact ⟨false, false, fun s => ⟨by simp, by simp, fun _ _ => rfl⟩⟩
  | op he =>
    cases he with
    | wait => exact ⟨false, false, fun s => ⟨by simp, by simp, fun _ _ => rfl⟩⟩
    | fault g =>
      exact ⟨g.setsPsize, g.setsOp, fun s =>
        ⟨by simpa using g.setsPsize_iff, by simpa using g.setsOp_iff, fun _ _ => rfl⟩⟩
    | tgen | crc8 | frame | pack => exact ⟨false, false, fun s => ⟨by simp, by simp, fun _ _ => rfl⟩⟩

/-- Settles O39: the flags neither select the update of a step nor enter into it. -/
theorem flagsStickyAndNeverRead : Obligations.FlagsStickyAndNeverRead := by
  refine ⟨fun s t hrst hst => ?_, fun s t hrst hst => ?_, rfl, rfl⟩
  · obtain ⟨e, he, rfl, hstep⟩ := effect_of_step hrst hst
    obtain ⟨p, o, hraises⟩ := he.raises
    obtain ⟨hp, ho, hflags⟩ := hraises s
    exact ⟨p, o, hp, ho, fun a b => (hstep _ (s.sameControl_setFlags a b)).trans (congrArg _ (hflags a b))⟩
  · obtain ⟨_, rfl⟩ := assertReset_of_step hrst hst
    exact ⟨rfl, rfl⟩

/-! ### The working registers (rules R20, R29) -/

/-- What an update leaves outside the working registers does not depend on them. -/
theorem StepEffect.withoutWorking {e : State → State} (he : StepEffect e) (s : State) :
    (e s.withoutWorking).withoutWorking = (e s).withoutWorking := by
  cases he with
  | finishReset => rfl
  | op he => cases he <;> rfl

theorem State.assertReset_withoutWorking (s : State) :
    s.withoutWorking.assertReset.withoutWorking = s.assertReset.withoutWorking := rfl

theorem State.sameControl_of_withoutWorking {s u : State} (h : s.withoutWorking = u.withoutWorking) : s.SameControl u where
  rst := (congrArg State.rst h.symm :)
  ready := (congrArg State.ready h.symm :)
  pending := (congrArg State.pending h.symm :)
  table a := (congrArg (State.tableRead · a) h.symm :)

/-- Settles O40: the working registers neither select the update of a step nor enter into what it leaves outside them. -/
theorem workingRegistersUnobservable : Obligations.WorkingRegistersUnobservable := by
  intro s u t hdone hsu hst
  have hsame := State.sameControl_of_withoutWorking hsu
  cases hrst : s.rst with
  | true =>
    obtain ⟨_, rfl⟩ := assertReset_of_step hrst hst
    refine ⟨_, step_of_rst (hsame.rst.trans hrst) (hdone hrst).2, ?_⟩
    rw [← u.assertReset_withoutWorking, ← hsu, s.assertReset_withoutWorking]
  | false =>
    obtain ⟨e, he, rfl, hstep⟩ := effect_of_step hrst hst
    refine ⟨e u, hstep u hsame, ?_⟩
    rw [← he.withoutWorking u, ← hsu, he.withoutWorking s]

/-! ### `READY` (rule R31) -/

theorem OpEffect.ready {e : State → State} (he : OpEffect e) (s : State) : (e s).ready = s.ready := by
  cases he <;> rfl

/-- Settles O34: the first step of a reset clears `READY`, the second sets it, and no operation writes it. -/
theorem readyAndWaitingRequests : Obligations.ReadyAndWaitingRequests := by
  refine ⟨fun s t hrst hst => ?_, fun s hrst hready => ?_, fun i s t hst => ?_, fun s t hacc hst => ?_⟩
  · obtain ⟨_, rfl⟩ := assertReset_of_step hrst hst
    exact s.assertReset_ready
  · exact ⟨_, step_of_not_ready hrst hready, rfl, Memory.read_generate_toNat s.table, rfl, rfl, rfl, rfl, rfl, rfl, rfl⟩
  · obtain ⟨e, he, rfl⟩ := effect_of_exec hst
    exact he.ready s
  · obtain ⟨e, he, hstep⟩ := step_effect_of_accepting hacc
    obtain rfl : t = e s := Host.Outcome.next.inj (hst.symm.trans (hstep s (.refl s)))
    exact (he.ready s).trans hacc.2

/-! ### The `last` mark (rule R34) -/

/-- What an operation appends to `DOUT` is one marked sequence of bytes. -/
theorem OpEffect.dout {e : State → State} (he : OpEffect e) (s : State) :
    ∃ bytes, (e s).dout = s.dout ++ markLast bytes := by
  cases he with
  | wait | fault | tgen => exact ⟨[], (List.append_nil _).symm⟩
  | crc8 c n k => exact ⟨[k], rfl⟩
  | frame c n k bytes => exact ⟨bytes, rfl⟩
  | pack c n bytes => exact ⟨bytes, rfl⟩

/-- A byte of a marked sequence is marked exactly when it is the final one. -/
theorem last_iff_of_markLast_getElem? {bytes : List Byte} {k : Nat} {b : OutByte} (h : (markLast bytes)[k]? = some b) :
    b.last = true ↔ k + 1 = (markLast bytes).length := by
  rcases List.eq_nil_or_concat bytes with rfl | ⟨bs, c, rfl⟩
  · simp at h
  · rw [List.concat_eq_append, markLast_concat] at h ⊢
    have hlen : k < bs.length + 1 := by simpa using (List.getElem?_eq_some_iff.mp h).1
    rcases Nat.lt_succ_iff_lt_or_eq.mp hlen with hk | rfl
    · rw [List.getElem?_append_left (by simpa using hk)] at h
      obtain ⟨d, _, rfl⟩ : ∃ d, bs[k]? = some d ∧ ({ byte := d, last := false } : OutByte) = b := by simpa using h
      simpa using hk.ne
    · obtain rfl : ({ byte := c, last := true } : OutByte) = b := by simpa using h
      simp

/-- Settles O43: all an operation appends is one marked sequence. -/
theorem lastMarksFinalByte : Obligations.LastMarksFinalByte := by
  intro i s t hst
  obtain ⟨e, he, rfl⟩ := effect_of_exec hst
  obtain ⟨bytes, hdout⟩ := he.dout s
  exact ⟨markLast bytes, hdout, fun _ _ => last_iff_of_markLast_getElem?⟩

/-! ### PACK's registers and requests that wait -/

/-- Settles O45: the loop never ends a row with bits left in `ACC` (log entries 11 and 12). -/
theorem packClearsAccumulator : Obligations.PackClearsAccumulator := fun cmd _ _ h =>
  ⟨_, execPack_of_supplied_cleared h cmd, rfl, rfl, rfl, rfl, rfl⟩

/-- Settles O10: each meaning's equation for short input (log entry 5). -/
theorem shortInputWaits : Obligations.ShortInputWaits :=
  fun s _ => ⟨execCrc8_of_short, execPack_of_short, fun h hle _ cmd hf =>
    (exec_of_frameOf hf s).trans (encodeFrame_of_short hle h cmd)⟩

/-! ### `STATUS` and the values at reset (rules R32, R35) -/

/-- A bit of `STATUS`, by the parts `STATUS` is put together from. -/
theorem State.getLsbD_status (s : State) (n : Nat) : s.status.getLsbD n =
    if n = 0 then s.ready else if n = 1 then s.errPsize else if n = 2 then s.errOp else false := by
  rw [State.status, BitVec.getLsbD_append, BitVec.getLsbD_append, BitVec.getLsbD_append]
  rcases n with _ | _ | _ | n <;> simp

/-- Settles O31: the bits are those of the three flags, all 0 at step 1 of a reset. -/
theorem statusBits : Obligations.StatusBits := by
  refine ⟨fun s => ⟨s.getLsbD_status 0, s.getLsbD_status 1, s.getLsbD_status 2, fun n hn => ?_⟩, fun s => by simp [State.status], rfl⟩
  rw [s.getLsbD_status, if_neg (by omega), if_neg (by omega), if_neg (by omega)]

/-- Settles O32: the table after reset lists nothing, and every other value is the field's own. -/
theorem stateAfterReset : Obligations.StateAfterReset :=
  ⟨Memory.unlisted_toNat, rfl, rfl, rfl, rfl, rfl, rfl, rfl, rfl, rfl, rfl, rfl, rfl, rfl, rfl⟩

end Sys2Proof.Machine
end

section
/-! PROOFS of the family 20_memory.md: what a step does to the queue of requests and to the records of `DOUT` and `RSP`. -/

namespace Sys2Proof.Machine

/-- An operation that does not wait takes the oldest request and appends one response (rules R54, R59). -/
theorem OpEffect.waits_or_responds {e : State → State} (he : OpEffect e) :
    e = id ∨ ∀ s : State, (e s).pending = s.pending.tail ∧ ∃ a, (e s).rsp = s.rsp ++ [a] := by
  cases he with
  | wait => exact .inl rfl
  | fault g => exact .inr fun _ => ⟨rfl, g.response, rfl⟩
  | tgen | crc8 | frame | pack => exact .inr fun _ => ⟨rfl, .ok, rfl⟩

/-- Settles O42: the block works on its reset or is idle, and the update of an offered request waits or answers it. -/
theorem outputAndResponsesInOrder : Obligations.OutputAndResponsesInOrder := by
  intro s t hrst hst
  have next_of_step {u : State} (h : step s = .next u) : t = u := Host.Outcome.next.inj (hst.symm.trans h)
  cases hready : s.ready with
  | false =>
    obtain rfl := next_of_step (step_of_not_ready hrst hready)
    exact .inl ⟨rfl, rfl, rfl⟩
  | true =>
    cases hp : s.pending with
    | nil =>
      obtain rfl := next_of_step (idleWithoutRequest s ⟨hrst, hready⟩ hp)
      exact .inl ⟨hp, rfl, rfl⟩
    | cons r rs =>
      obtain ⟨e, he, hstep⟩ := step_effect_of_accepting ⟨hrst, hready⟩
      obtain rfl := next_of_step (hstep s (.refl s))
      rcases he.waits_or_responds with rfl | hresponds
      · exact .inl ⟨hp, rfl, rfl⟩
      · obtain ⟨hpending, a, hrsp⟩ := hresponds s
        obtain ⟨bytes, hdout⟩ := he.dout s
        exact .inr ⟨r, markLast bytes, a, by rw [hpending, hp, List.tail_cons], hdout, hrsp⟩

end Sys2Proof.Machine
end

section
/-! PROOFS of the family 30_encoding.md. First what the decoder answers for a word put together from its fields, and every way a word
can decode; then the two directions of the round trip, the host's requests, and the length and fixed bytes of a frame. -/

namespace Sys2Proof.Machine

/-! ### The decoder on a word put together from its fields (rules R70, R71) -/

@[simp] theorem decode_requestWord_tgen (cmd : Byte) (len : Count) :
    decode (requestWord 0#3 cmd len) = .ok (.tgen cmd len) := by
  simp [decode]

@[simp] theorem decode_requestWord_crc8 (cmd : Byte) (len : Count) :
    decode (requestWord 1#3 cmd len) = .ok (.crc8 cmd len) := by
  simp [decode]

@[simp] theorem decode_requestWord_frame (cmd : Byte) (len : Count) :
    decode (requestWord 2#3 cmd len) = .ok (decodeFrame cmd len) := by
  simp [decode]

@[simp] theorem decode_requestWord_pack (cmd : Byte) (len : Count) :
    decode (requestWord 3#3 cmd len) = .ok (.pack cmd len) := by
  simp [decode]

/-- A word that decodes is put together from an `op` of 0 to 3 and its own `cmd` and `len` (rules R71, R72, R182). -/
theorem requestWord_of_decode {w : Word} {i : Instr} (h : decode w = .ok i) : ∃ cmd len,
    (w = requestWord 0#3 cmd len ∧ i = .tgen cmd len) ∨ (w = requestWord 1#3 cmd len ∧ i = .crc8 cmd len) ∨
    (w = requestWord 2#3 cmd len ∧ i = decodeFrame cmd len) ∨ (w = requestWord 3#3 cmd len ∧ i = .pack cmd len) := by
  by_cases hrsv : reqRsv w = 0#5
  · refine ⟨reqCmd w, reqLen w, ?_⟩
    have hw := (requestWord_fields w hrsv).symm
    rw [decode, if_neg (not_not.mpr hrsv)] at h
    split at h
    · next hop => exact .inl ⟨hop ▸ hw, (Except.ok.inj h).symm⟩
    split at h
    · next hop => exact .inr (.inl ⟨hop ▸ hw, (Except.ok.inj h).symm⟩)
    split at h
    · next hop => exact .inr (.inr (.inl ⟨hop ▸ hw, (Except.ok.inj h).symm⟩))
    split at h
    · next hop => exact .inr (.inr (.inr ⟨hop ▸ hw, (Except.ok.inj h).symm⟩))
    · cases h
  · rw [decode, if_pos hrsv] at h
    cases h

/-! ### The choice among the rows of `op = 2` (rule R80) -/

theorem mem_definedCommands {cmd : Byte} : cmd ∈ definedCommands ↔
    cmd = Params.cmdRetract ∨ cmd = Params.cmdFeed ∨ cmd = Params.cmdDraw ∨ cmd = Params.cmdQuality ∨
      cmd = Params.cmdEnergy ∨ cmd = Params.cmdMode := by
  simp [definedCommands]

/-- A generic FENC is well formed exactly when its command byte has no row of its own. -/
theorem wellFormed_fenc {cmd : Byte} {len : Count} : (Instr.fenc cmd len).wellFormed = true ↔ cmd ∉ definedCommands := by
  simp [Instr.wellFormed]

/-- A command byte without a row of its own falls through to the FENC row. -/
theorem decodeFrame_of_not_mem {cmd : Byte} (h : cmd ∉ definedCommands) (len : Count) :
    decodeFrame cmd len = .fenc cmd len := by
  simp only [mem_definedCommands, not_or] at h
  obtain ⟨hretract, hfeed, hdraw, hquality, henergy, hmode⟩ := h
  rw [decodeFrame, if_neg hretract, if_neg hfeed, if_neg hdraw, if_neg hquality, if_neg henergy, if_neg hmode]

/-- Whatever its command byte, an `op = 2` word selects a well-formed operation that encodes a frame with its own fields. -/
theorem decodeFrame_spec (cmd : Byte) (len : Count) :
    (decodeFrame cmd len).wellFormed = true ∧ frameOf (decodeFrame cmd len) = some (cmd, len) := by
  by_cases h : cmd ∈ definedCommands
  · rcases mem_definedCommands.mp h with rfl | rfl | rfl | rfl | rfl | rfl <;> exact ⟨rfl, rfl⟩
  · rw [decodeFrame_of_not_mem h]
    exact ⟨wellFormed_fenc.mpr h, rfl⟩

/-! ### The round trip -/

/-- Settles O2: the decoder reads back the fields the word was put together from, and a well-formed FENC has no row of its own. -/
theorem decodeOfEncode : Obligations.DecodeOfEncode := by
  intro i hwf
  cases i with
  | tgen cmd len => exact decode_requestWord_tgen cmd len
  | crc8 cmd len => exact decode_requestWord_crc8 cmd len
  | fenc cmd len => rw [encode, decode_requestWord_frame, decodeFrame_of_not_mem (wellFormed_fenc.mp hwf)]
  | pack cmd len => exact decode_requestWord_pack cmd len
  | retract len | feed len | draw len | quality len | energy len | mode len => exact decode_requestWord_frame _ len

/-- Settles O3: by the way the word decodes. -/
theorem encodeOfDecode : Obligations.EncodeOfDecode := by
  intro w i h
  obtain ⟨cmd, len, ⟨rfl, rfl⟩ | ⟨rfl, rfl⟩ | ⟨rfl, rfl⟩ | ⟨rfl, rfl⟩⟩ := requestWord_of_decode h
  · exact ⟨rfl, rfl⟩
  · exact ⟨rfl, rfl⟩
  · exact ⟨encode_decodeFrame cmd len, (decodeFrame_spec cmd len).1⟩
  · exact ⟨rfl, rfl⟩

/-- Settles O1: the fourteen words are evaluated. -/
theorem specWordsDecode : Obligations.SpecWordsDecode := by
  unfold Obligations.SpecWordsDecode
  decide

/-! ### The host's requests (rules R81, R82) -/

/-- A count cut to 16 bits announces no more than there is. -/
theorem toNat_count_le (n : Nat) : (BitVec.ofNat 16 n : Count).toNat ≤ n := by
  rw [BitVec.toNat_ofNat]
  exact Nat.mod_le n _

/-- A request that announces its bytes on `DIN` and is no PACK brings all its input. -/
theorem supplied_of_din {op : BitVec 3} (hop : op ≠ 3#3) (cmd : Byte) (p : List Byte) :
    Request.Supplied { word := requestWord op cmd (BitVec.ofNat 16 p.length), din := p, pin := [] } := by
  refine ⟨fun _ => ?_, fun h => absurd h ?_⟩
  · rw [reqLen_requestWord]
    exact toNat_count_le p.length
  · rwa [reqOp_requestWord]

theorem requestPack_supplied (px : List Word) : (requestPack px).Supplied := by
  refine ⟨fun h => absurd h ?_, fun _ => ?_⟩
  · rw [requestPack, reqOp_requestWord]
    decide
  · rw [requestPack, reqLen_requestWord]
    exact toNat_count_le px.length

/-- Settles O4: each request is a word put together from its fields, its count the length of the input it carries. -/
theorem assemblerRequestsDecode : Obligations.AssemblerRequestsDecode := by
  refine ⟨decode_requestWord_tgen _ _, fun p _ => ⟨decode_requestWord_crc8 _ _, decode_requestWord_frame _ _,
    decode_requestWord_frame _ _, fun cmd => ⟨?_, supplied_of_din (by decide) cmd p⟩, supplied_of_din (by decide) 0#8 p⟩,
    fun px _ => ⟨decode_requestWord_pack _ _, requestPack_supplied px⟩, fun b => ⟨decode_requestWord_frame _ _,
    decode_requestWord_frame _ _, decode_requestWord_frame _ _, decode_requestWord_frame _ _⟩⟩
  exact ⟨_, decode_requestWord_frame _ _, (decodeFrame_spec _ _).2⟩

/-! ### The length and the fixed bytes of a frame (rules R76, R79, R122) -/

/-- A frame ends in `EOF`. -/
theorem getElem?_frameBytes_last (cmd n : Byte) (p : List Byte) (k : Byte) :
    (frameBytes cmd n p k)[(frameBytes cmd n p k).length - 1]? = some Params.eof := by
  rw [← List.getLast?_eq_getElem?, frameBytes, List.getLast?_append]
  rfl

/-- A count of at most 255 is the value of its low byte, the frame's length byte. -/
theorem toNat_lengthByte {len : Count} (h : len.toNat ≤ 255) : (len.setWidth 8 : Byte).toNat = len.toNat := by
  rw [BitVec.toNat_setWidth]
  exact Nat.mod_eq_of_lt (Nat.lt_succ_of_le h)

/-- An operation that encodes a frame and emits something emits the frame of its own payload, of at most 255 bytes. -/
theorem dout_of_frame_emitted {i : Instr} {cmd : Byte} {len : Count} {s t : State} (hf : frameOf i = some (cmd, len))
    (hst : exec i s = .next t) (hne : t.dout ≠ s.dout) :
    len.toNat ≤ 255 ∧ len.toNat ≤ s.offered.din.length ∧ t.dout = s.dout ++
      markLast (frameBytes cmd (len.setWidth 8) (s.dinOperand len) (checksum s.table (s.dinOperand len))) := by
  rw [exec_of_frameOf hf] at hst
  rcases encodeFrame_cases cmd len s with ⟨_, he⟩ | ⟨_, _, he⟩ | ⟨hle, hin, he⟩ <;>
    obtain rfl := Host.Outcome.next.inj (hst.symm.trans he)
  · exact absurd rfl hne
  · exact absurd rfl hne
  · exact ⟨hle, hin, rfl⟩

/-- Settles O20: what is emitted is the frame of a payload as long as `len` says, and `len` fits the length byte. -/
theorem frameLengthFromByteFour : Obligations.FrameLengthFromByteFour := by
  intro i cmd len s t hf hst hne
  obtain ⟨hle, hin, hdout⟩ := dout_of_frame_emitted hf hst hne
  have hlen (k : Byte) : (frameBytes cmd (len.setWidth 8) (s.dinOperand len) k).length = len.toNat + 8 := by
    rw [length_frameBytes, State.length_dinOperand hin]
  refine ⟨_, by rw [hdout, List.map_append, markLast_bytes], hlen _, ?_, ?_, ⟨len.setWidth 8, rfl, ?_⟩, rfl, rfl,
    getElem?_frameBytes_last _ _ _ _⟩
  · rw [hlen]; exact Nat.le_add_left 8 _
  · rw [hlen]; exact Nat.add_le_add_right hle 8
  · rw [hlen, toNat_lengthByte hle]

end Sys2Proof.Machine
end

section
/-! PROOFS of the family 40_crc8.md. First the arithmetic of the constant `T` over GF(2), one round of rule R101 at a time; then TGEN
and what it leaves of `TABLE`; then the running value over a table that reads as `T`, and CRC8. -/

namespace Sys2Proof.Machine

/-! ### The constant is linear and injective (rule R105) -/

/-- A round in one expression: the shift, and what the bit shifted out brings in. -/
theorem tableShift_eq (v : Byte) : tableShift v = v <<< 1 ^^^ (if v.msb then Params.poly else 0#8) := by
  unfold tableShift
  split
  · rfl
  · rw [BitVec.xor_zero]

theorem tableShift_xor (a b : Byte) : tableShift (a ^^^ b) = tableShift a ^^^ tableShift b := by
  have hpoly : (if (a ^^^ b).msb then Params.poly else 0#8) =
      (if a.msb then Params.poly else 0#8) ^^^ (if b.msb then Params.poly else 0#8) := by
    rw [BitVec.msb_xor]
    cases a.msb <;> cases b.msb <;> rfl
  rw [tableShift_eq, tableShift_eq a, tableShift_eq b, BitVec.shiftLeft_xor_distrib, hpoly]
  ac_rfl

theorem tableShifts_xor (n : Nat) (a b : Byte) : tableShifts n (a ^^^ b) = tableShifts n a ^^^ tableShifts n b := by
  induction n generalizing a b with
  | zero => rfl
  | succ n ih => rw [tableShifts, tableShift_xor, ih, tableShifts, tableShifts]

theorem tableEntry_xor (a b : Byte) : tableEntry (a ^^^ b) = tableEntry a ^^^ tableEntry b := tableShifts_xor 8 a b

/-- The bit a round shifts out comes back in at bit 0, the only bit of the polynomial the shift leaves clear. -/
theorem getLsbD_zero_tableShift (v : Byte) : (tableShift v).getLsbD 0 = v.msb := by
  unfold tableShift
  cases hv : v.msb <;> simp [Params.poly]

theorem eq_zero_of_tableShift {v : Byte} (h : tableShift v = 0#8) : v = 0#8 := by
  have hmsb : v.msb = false := by rw [← getLsbD_zero_tableShift, h, BitVec.getLsbD_zero]
  have hshift : v <<< 1 = 0#8 := by simpa [tableShift, hmsb] using h
  rw [BitVec.msb_eq_decide, decide_eq_false_iff_not] at hmsb
  bv_omega

theorem eq_zero_of_tableShifts {n : Nat} {v : Byte} (h : tableShifts n v = 0#8) : v = 0#8 := by
  induction n generalizing v with
  | zero => exact h
  | succ n ih => exact eq_zero_of_tableShift (ih h)

theorem tableEntry_injective {a b : Byte} (h : tableEntry a = tableEntry b) : a = b := by
  have hzero : tableEntry (a ^^^ b) = 0#8 := by rw [tableEntry_xor, h, BitVec.xor_self]
  exact BitVec.xor_eq_zero_iff.mp (eq_zero_of_tableShifts hzero)

/-- Settles O14: a round is linear and sends only 0 to 0, so eight rounds are and do. -/
theorem tableLinearAndInjective : Obligations.TableLinearAndInjective :=
  ⟨tableEntry_xor, fun _ _ => tableEntry_injective⟩

/-! ### The constant is a remainder (rule R101) -/

/-- The product without carries of the polynomial `x^8 + x^2 + x + 1` and the one whose coefficients are `b 0` to `b (n - 1)`. -/
def polyMultiple (b : Nat → Bool) (n : Nat) : BitVec 16 :=
  (List.range n).foldl (fun v k => if b k then v ^^^ (0x107#16 <<< k) else v) 0#16

theorem polyMultiple_succ (b : Nat → Bool) (n : Nat) :
    polyMultiple b (n + 1) = polyMultiple b n ^^^ ((if b n then 0x107#16 else 0#16) <<< n) := by
  cases hb : b n <;> simp [polyMultiple, List.range_succ, hb]

theorem polyMultiple_congr {b c : Nat → Bool} {n : Nat} (h : ∀ k < n, b k = c k) : polyMultiple b n = polyMultiple c n := by
  induction n with
  | zero => rfl
  | succ n ih => rw [polyMultiple_succ, polyMultiple_succ, ih fun k hk => h k (by omega), h n (by omega)]

theorem polyMultiple_update (b : Nat → Bool) (n : Nat) (t : Bool) : polyMultiple (Function.update b n t) (n + 1) =
    polyMultiple b n ^^^ ((if t then 0x107#16 else 0#16) <<< n) := by
  rw [polyMultiple_succ, Function.update_self, polyMultiple_congr fun k hk => Function.update_of_ne hk.ne t b]

/-- The value of a high byte followed by a low byte. -/
theorem toNat_append_bytes (hi lo : Byte) : (hi ++ lo : BitVec 16).toNat = hi.toNat * 256 + lo.toNat := by
  calc (hi ++ lo : BitVec 16).toNat = hi.toNat <<< 8 ||| lo.toNat := BitVec.toNat_append hi lo
    _ = hi.toNat * 256 + lo.toNat := by rw [← Nat.shiftLeft_add_eq_or_of_lt lo.isLt, Nat.shiftLeft_eq]

/-- A byte followed by eight zeros is the byte shifted left by eight. -/
theorem append_zero_eq_shiftLeft (i : Byte) : (i ++ 0#8 : BitVec 16) = (0#8 ++ i : BitVec 16) <<< 8 := by
  apply BitVec.eq_of_toNat_eq
  rw [BitVec.toNat_shiftLeft, toNat_append_bytes, toNat_append_bytes, Nat.shiftLeft_eq, BitVec.toNat_ofNat]
  omega

/-- A shift by one moves the most significant bit of the byte into the byte above. -/
theorem append_shiftLeft_one_eq_append (v : Byte) :
    (0#8 ++ v : BitVec 16) <<< 1 = ((if v.msb then 1#8 else 0#8) ++ v <<< 1 : BitVec 16) := by
  apply BitVec.eq_of_toNat_eq
  rw [BitVec.toNat_shiftLeft, toNat_append_bytes, toNat_append_bytes, BitVec.toNat_shiftLeft, BitVec.msb_eq_decide]
  by_cases h : 128 ≤ v.toNat
  · simp [h, Nat.shiftLeft_eq]
    omega
  · simp [h, Nat.shiftLeft_eq]
    omega

/-- One round shifts left and takes the polynomial off when the bit shifted out was 1. -/
theorem append_shiftLeft_one (v : Byte) : (0#8 ++ v : BitVec 16) <<< 1 =
    (0#8 ++ tableShift v : BitVec 16) ^^^ (if v.msb then 0x107#16 else 0#16) := by
  rw [append_shiftLeft_one_eq_append, tableShift_eq]
  cases v.msb
  · simp
  · calc (1#8 ++ v <<< 1 : BitVec 16) = (0#8 ^^^ 1#8) ++ ((v <<< 1 ^^^ 7#8) ^^^ 7#8) := by simp
      _ = (0#8 ++ (v <<< 1 ^^^ 7#8) : BitVec 16) ^^^ (1#8 ++ 7#8) := BitVec.xor_append.symm

/-- After `n` rounds the shifted value differs from what is left by a multiple of the polynomial of degree below `n`. -/
theorem shiftLeft_eq_tableShifts_xor (n : Nat) (v : Byte) : ∃ b : Nat → Bool,
    (0#8 ++ v : BitVec 16) <<< n = (0#8 ++ tableShifts n v : BitVec 16) ^^^ polyMultiple b n := by
  induction n generalizing v with
  | zero => exact ⟨fun _ => false, by simp [polyMultiple, tableShifts]⟩
  | succ n ih =>
    obtain ⟨b, hb⟩ := ih (tableShift v)
    refine ⟨Function.update b n v.msb, ?_⟩
    calc (0#8 ++ v : BitVec 16) <<< (n + 1)
        = (0#8 ++ tableShift v : BitVec 16) <<< n ^^^ (if v.msb then 0x107#16 else 0#16) <<< n := by
          rw [Nat.add_comm n 1, BitVec.shiftLeft_add, append_shiftLeft_one, BitVec.shiftLeft_xor_distrib]
      _ = (0#8 ++ tableShifts (n + 1) v : BitVec 16) ^^^ polyMultiple (Function.update b n v.msb) (n + 1) := by
          rw [hb, polyMultiple_update, BitVec.xor_assoc, tableShifts]

/-- Settles O13: the quotient has the bits the eight rounds shift out. -/
theorem tableEntryIsRemainder : Obligations.TableEntryIsRemainder := by
  intro i
  obtain ⟨b, hb⟩ := shiftLeft_eq_tableShifts_xor 8 i
  refine ⟨BitVec.ofFnLE fun k => b k, ?_⟩
  rw [append_zero_eq_shiftLeft, hb]
  refine congrArg _ (polyMultiple_congr fun k hk => ?_)
  simp [hk]

/-! ### TGEN (rule R102) -/

/-- TGEN writes no address outside the 256 entries. -/
theorem Memory.read_generate_of_le (m : Memory) {a : Nat} (h : 256 ≤ a) : m.generate.read a = m.read a := by
  rw [Memory.generate, Memory.read_writeUpTo, if_neg (by simpa [Params.tableSize] using h)]

/-- Once `READY` is 1 the table lists no entry that differs from its constant (rule R21). -/
theorem State.Inv.table_eq_nil {s : State} (h : s.Inv) (hready : s.ready = true) : s.table = [] := by
  obtain ⟨hwf, _, _, htab⟩ := h
  refine Memory.eq_nil_of_read hwf fun a ha => ?_
  have hread := htab hready (BitVec.ofNat 8 a)
  rwa [State.tableRead, BitVec.toNat_ofNat, Nat.mod_eq_of_lt ha] at hread

/-- Settles O11: TGEN's answer is its meaning's own, and its loop writes every entry. -/
theorem tgenFillsTable : Obligations.TgenFillsTable := fun _ _ s =>
  ⟨_, rfl, Memory.read_generate_toNat s.table, rfl⟩

/-- Settles O12: both tables are the one that lists nothing. -/
theorem tgenAfterResetKeepsTable : Obligations.TgenAfterResetKeepsTable := by
  intro cmd len s t hinv hready hst
  obtain rfl := Host.Outcome.next.inj hst
  have ⟨hwf, _⟩ := hinv
  calc s.table.generate = [] := Memory.generate_eq_nil hwf
    _ = s.table := (hinv.table_eq_nil hready).symm

/-! ### The running value and CRC8 (rules R103, R104) -/

/-- The checksum of `p` over the table of `s`, as rule R104 writes it. -/
theorem State.checksum_eq_foldl (s : State) (p : List Byte) :
    checksum s.table p = p.foldl (fun crc d => s.tableRead (crc ^^^ d)) 0x00#8 := by
  suffices h : ∀ crc, crcFrom s.table crc p = p.foldl (fun crc d => s.tableRead (crc ^^^ d)) crc from h _
  induction p with
  | nil => exact fun _ => rfl
  | cons d p ih => exact fun _ => ih _

/-- Settles O15: CRC8's equation for supplied input, its checksum written as rule R104 does. -/
theorem crc8EmitsChecksum : Obligations.Crc8EmitsChecksum := by
  intro cmd len s h
  refine ⟨_, execCrc8_of_supplied h cmd, ?_⟩
  rw [State.checksum_eq_foldl]
  rfl

/-- The entry for 0 is 0, so two equal values cancel in the per-byte step. -/
theorem crcStep_self {m : Memory} (h : ∀ i : Byte, m.read i.toNat = tableEntry i) (crc : Byte) : crcStep m crc crc = 0x00#8 := by
  rw [crcStep, BitVec.xor_self, h]
  rfl

/-- Settles O16: the checksum meets itself in the last step, and the leading zero meets the initial value 0 in the first. -/
theorem checksumResidue : Obligations.ChecksumResidue := by
  intro m h p
  constructor
  · calc checksum m (p ++ [checksum m p]) = crcStep m (checksum m p) (checksum m p) := crcFrom_append m _ p _
      _ = 0x00#8 := crcStep_self h _
  · calc checksum m (0x00#8 :: p) = crcFrom m (crcStep m 0x00#8 0x00#8) p := rfl
      _ = checksum m p := by rw [crcStep_self h]; rfl

/-! ### What the unit leaves unchanged (rules R30, R31, R102, R103) -/

/-- Settles O17: TGEN's loop ends below address 256, and CRC8 waits or completes without writing `TABLE`. -/
theorem crcUnitLeavesTheRest : Obligations.CrcUnitLeavesTheRest := by
  refine fun cmd len s t => ⟨fun hst => ?_, fun hst => ?_⟩
  · obtain rfl := Host.Outcome.next.inj hst
    exact ⟨fun _ => Memory.read_generate_of_le s.table, rfl, rfl, rfl, rfl, rfl, rfl, rfl, rfl, rfl, rfl, rfl, rfl⟩
  · rcases execCrc8_cases cmd len s with ⟨_, he⟩ | ⟨_, he⟩ <;>
      obtain rfl := Host.Outcome.next.inj (hst.symm.trans he) <;>
      exact ⟨fun _ => rfl, rfl, rfl, rfl, rfl, rfl, rfl, rfl, rfl, rfl⟩

end Sys2Proof.Machine
end

section
/-! PROOFS of the family 41_frame_encoder.md. First the frame as it stands on `DOUT`, mark by mark, and what an operation that
encodes a frame answers in terms of it; then each statement, for FENC and the six commands at once. -/

namespace Sys2Proof.Machine

/-! ### The frame on `DOUT` (rules R63, R121) -/

/-- A frame as transfers: only `EOF`, its final byte, carries the mark (rule R34). -/
theorem markLast_frameBytes (cmd n : Byte) (p : List Byte) (k : Byte) : markLast (frameBytes cmd n p k) =
    ([0x51#8, 0x78#8, cmd, 0x00#8, n, 0x00#8] ++ p ++ [k]).map (fun b => { byte := b, last := false }) ++
      [{ byte := 0xFF#8, last := true }] := by
  rw [← markLast_concat, List.append_assoc]
  rfl

/-- The checksum follows the six header bytes and the payload, unmarked. -/
theorem markLast_frameBytes_getElem?_checksum (cmd n : Byte) (p : List Byte) (k : Byte) :
    (markLast (frameBytes cmd n p k))[6 + p.length]? = some { byte := k, last := false } := by
  have hheader : 6 + p.length = ([0x51#8, 0x78#8, cmd, 0x00#8, n, 0x00#8] ++ p).length := by
    rw [List.length_append]; rfl
  rw [markLast_frameBytes, List.map_append, List.append_assoc, hheader, ← List.length_map,
    List.getElem?_append_right le_rfl, Nat.sub_self]
  rfl

/-- The length byte is the length of the payload the request announces and brings (rule R123). -/
theorem State.ofNat_length_dinOperand {s : State} {len : Count} (h : len.toNat ≤ s.offered.din.length) :
    BitVec.ofNat 8 (s.dinOperand len).length = len.setWidth 8 := by
  rw [State.length_dinOperand h, BitVec.ofNat_toNat]

/-- With its payload there, each of the seven emits the frame of the payload and its checksum (rule R123). -/
theorem exec_frame_of_supplied {i : Instr} {cmd : Byte} {len : Count} {s : State} (hf : frameOf i = some (cmd, len))
    (hle : len.toNat ≤ 255) (hin : len.toNat ≤ s.offered.din.length) : exec i s =
      .next ((((((s.accept cmd len).consumeDin len).setChecksum (checksum s.table (s.dinOperand len)) len).emit
        (frameBytes cmd (len.setWidth 8) (s.dinOperand len) (checksum s.table (s.dinOperand len)))).setPhase
          .done).respond .ok) :=
  (exec_of_frameOf hf s).trans (encodeFrame_of_supplied hle hin cmd)

/-! ### Layout and checksum (rules R121, R123, R124) -/

/-- Settles O19: the answer of a supplied frame, with its transfers and its checksum written out. -/
theorem frameLayout : Obligations.FrameLayout := by
  intro i cmd len s hf hle hin
  refine ⟨_, s.dinOperand len, checksum s.table (s.dinOperand len), exec_frame_of_supplied hf hle hin, rfl,
    s.checksum_eq_foldl _, ?_⟩
  rw [State.ofNat_length_dinOperand hin, List.append_assoc s.dout, ← markLast_frameBytes]
  rfl

/-- Settles O21: CRC8 and the frame compute the checksum of the same bytes over tables that read the same. -/
theorem frameChecksumIsCrc8OfPayload : Obligations.FrameChecksumIsCrc8OfPayload := by
  intro i cmd c len s u hf hle hin hpayload hin' htab
  have hk : checksum u.table (u.dinOperand len) = checksum s.table (s.dinOperand len) := by
    rw [State.dinOperand, hpayload]
    exact crcFrom_congr htab _ _
  refine ⟨_, _, checksum s.table (s.dinOperand len), exec_frame_of_supplied hf hle hin, execCrc8_of_supplied hin' c, ?_, ?_⟩
  · rw [hk]; rfl
  · have hpos := markLast_frameBytes_getElem?_checksum cmd (len.setWidth 8) (s.dinOperand len)
      (checksum s.table (s.dinOperand len))
    rw [State.length_dinOperand hin] at hpos
    simpa [Nat.add_assoc, List.getElem?_append_right] using hpos

/-! ### Commands with one byte (rules R127, R129, R130, R131) -/

/-- Over the complete table the checksum of one byte is its entry. -/
theorem State.Inv.checksum_singleton {s : State} (h : s.Inv) (hready : s.ready = true) (b : Byte) :
    checksum s.table [b] = tableEntry b := by
  obtain ⟨_, _, _, htab⟩ := h
  calc checksum s.table [b] = s.tableRead (0x00#8 ^^^ b) := rfl
    _ = tableEntry b := by rw [BitVec.zero_xor, htab hready]

/-- Whatever its command byte, a frame of the one byte `b` is nine bytes with `T(b)` for a checksum. -/
theorem exec_frame_of_one_byte {s : State} {b : Byte} {bs : List Byte} (hinv : s.Inv) (hready : s.ready = true)
    (hdin : s.offered.din = b :: bs) {i : Instr} {cmd : Byte} (hf : frameOf i = some (cmd, 1#16)) :
    ∃ t, exec i s = .next t ∧ t.dout.map OutByte.byte = s.dout.map OutByte.byte ++
      [0x51#8, 0x78#8, cmd, 0x00#8, 0x01#8, 0x00#8, b, tableEntry b, 0xFF#8] ∧ t.rsp = s.rsp ++ [.ok] := by
  have hpayload : s.dinOperand 1#16 = [b] := by rw [State.dinOperand, hdin]; rfl
  have hin : (1#16 : Count).toNat ≤ s.offered.din.length := by rw [hdin]; exact Nat.le_add_left 1 _
  have hexec := exec_frame_of_supplied hf (by decide) hin
  rw [hpayload, hinv.checksum_singleton hready] at hexec
  refine ⟨_, hexec, ?_, rfl⟩
  simp only [State.respond_dout, State.setPhase_dout, State.emit_dout, State.setChecksum_dout, State.consumeDin_dout,
    State.accept_dout, List.map_append, markLast_bytes]
  rfl

/-- Settles O22: the frame of one byte, at each of the four command bytes. -/
theorem oneByteCommandFrames : Obligations.OneByteCommandFrames := fun _ _ _ hinv hready hdin =>
  have hframe {i : Instr} {cmd : Byte} := exec_frame_of_one_byte hinv hready hdin (i := i) (cmd := cmd)
  ⟨hframe rfl, hframe rfl, hframe rfl, hframe rfl⟩

/-! ### The seven are one operation, and what it leaves (rules R80, R123, R184) -/

/-- Settles O18: a command and FENC with its command byte are the same encoding of a frame. -/
theorem commandsAreFenc : Obligations.CommandsAreFenc := fun _ cmd len s hf =>
  (exec_of_frameOf hf s).trans (exec_of_frameOf (i := .fenc cmd len) rfl s).symm

/-- Settles O23: an oversize frame faults, and one within the limit waits or completes without writing `TABLE` or a flag. -/
theorem frameEncoderLeavesTheRest : Obligations.FrameEncoderLeavesTheRest := by
  intro i cmd len s t hf hst
  rw [exec_of_frameOf hf] at hst
  rcases encodeFrame_cases cmd len s with ⟨hlt, he⟩ | ⟨hle, _, he⟩ | ⟨hle, _, he⟩ <;>
    obtain rfl := Host.Outcome.next.inj (hst.symm.trans he)
  · simp [Nat.not_le_of_lt hlt, BlockFault.setsOp]
  · simp
  · simp [Nat.not_lt_of_le hle]

end Sys2Proof.Machine
end

section
/-! PROOFS of the family 42_row_packer.md. First the bit of a pixel; then one packed byte, bit by bit; then PACK's loop as one packed
byte for each group of eight pixels; then each statement, read off from the row in that form. -/

namespace Sys2Proof.Machine

/-! ### The bit of a pixel (rules R74, R151) -/

/-- A channel is below half scale exactly when its top bit is 0. -/
theorem decide_toNat_lt_128 (c : Byte) : decide (c.toNat < 128) = !c.getLsbD 7 := by
  rw [show c.getLsbD 7 = c.msb from rfl, BitVec.msb_eq_decide, ← decide_not, decide_eq_decide]
  omega

/-- A channel is above half scale exactly when its top bit is 1 and its other bits are not all 0. -/
theorem decide_toNat_gt_128 (c : Byte) :
    decide (c.toNat > 128) = (c.getLsbD 7 && decide (c.extractLsb' 0 7 ≠ 0#7)) := by
  have hlow : c.extractLsb' 0 7 = 0#7 ↔ c.toNat % 128 = 0 := by
    rw [← BitVec.toNat_inj, BitVec.extractLsb'_toNat]
    rfl
  have hlt := c.isLt
  rw [show c.getLsbD 7 = c.msb from rfl, BitVec.msb_eq_decide, ← Bool.decide_and, decide_eq_decide, ne_eq, hlow]
  omega

/-- The channels stand in the pixel word as rule R74 lays them out. -/
theorem pixelOfWord_append (r g b a : Byte) : pixelOfWord (r ++ g ++ b ++ a) = { r := r, g := g, b := b, a := a } := by
  have hg : (r ++ g ++ b).extractLsb' 8 8 = g :=
    (BitVec.extractLsb'_append_eq_of_le le_rfl).trans BitVec.extractLsb'_append_eq_right
  have hr : (r ++ g ++ b).extractLsb' 16 8 = r :=
    (BitVec.extractLsb'_append_eq_of_le (by decide)).trans BitVec.extractLsb'_append_eq_left
  rw [pixelOfWord, Pixel.mk.injEq]
  exact ⟨(BitVec.extractLsb'_append_eq_of_le (by decide)).trans hr, (BitVec.extractLsb'_append_eq_of_le (by decide)).trans hg,
    (BitVec.extractLsb'_append_eq_of_le le_rfl).trans BitVec.extractLsb'_append_eq_right, BitVec.extractLsb'_append_eq_right⟩

/-- Settles O24: one comparison per channel, each in bit terms. -/
theorem pixelThreshold : Obligations.PixelThreshold := by
  refine fun r g b a => ⟨?_, ?_, pixelOfWord_append r g b a⟩
  · simp [painted, and_assoc]
  · simp only [painted, decide_toNat_lt_128, decide_toNat_gt_128, Bool.and_assoc]

/-! ### One packed byte (rules R153, R154, R157) -/

/-- The byte packed from the bits of one group, first pixel first. -/
def packGroup (o : PackOrder) (g : List Bool) : Byte := g.foldl (packBit o) Params.accInit

theorem packGroup_concat (o : PackOrder) (g : List Bool) (t : Bool) :
    packGroup o (g ++ [t]) = packBit o (packGroup o g) t := List.foldl_concat _ _ _ _

/-- Under `MSB_FIRST` a pixel enters at bit 0 and the earlier ones move up. -/
theorem packBit_msbFirst (acc : Byte) (t : Bool) : packBit .msbFirst acc t = (acc.concat t).setWidth 8 := by
  refine BitVec.eq_of_getLsbD_eq fun n hn => ?_
  cases n with
  | zero => simp [packBit]
  | succ n => simp [packBit, hn, BitVec.getLsbD_eq_getElem (Nat.lt_of_succ_lt hn)]

/-- Under `LSB_FIRST` a pixel enters at bit 7. -/
theorem getLsbD_packBit_lsbFirst_top (acc : Byte) (t : Bool) : (packBit .lsbFirst acc t).getLsbD 7 = t := by
  simp [packBit]

/-- Under `LSB_FIRST` the earlier pixels move down. -/
theorem getLsbD_packBit_lsbFirst_of_lt (acc : Byte) (t : Bool) {n : Nat} (h : n < 7) :
    (packBit .lsbFirst acc t).getLsbD n = acc.getLsbD (1 + n) := by
  simp [packBit, h]

/-- Under `MSB_FIRST` the bits of the byte are the group's, last pixel lowest, and 0 above. -/
theorem getLsbD_packGroup_msbFirst (g : List Bool) {n : Nat} (hn : n < 8) :
    (packGroup .msbFirst g).getLsbD n = g.reverse.getD n false := by
  induction g using List.reverseRecOn generalizing n with
  | nil => simp [packGroup, Params.accInit]
  | append_singleton g t ih =>
    rw [packGroup_concat, packBit_msbFirst, BitVec.getLsbD_setWidth, BitVec.getLsbD_concat, List.reverse_concat]
    cases n with
    | zero => simp
    | succ n => simpa [hn] using ih (Nat.lt_of_succ_lt hn)

/-- Under `LSB_FIRST` the bits of the byte are the group's, last pixel highest, and 0 below. -/
theorem getLsbD_packGroup_lsbFirst (g : List Bool) {n : Nat} (hn : n < 8) :
    (packGroup .lsbFirst g).getLsbD (7 - n) = g.reverse.getD n false := by
  induction g using List.reverseRecOn generalizing n with
  | nil => simp [packGroup, Params.accInit]
  | append_singleton g t ih =>
    rw [packGroup_concat, List.reverse_concat]
    cases n with
    | zero => exact getLsbD_packBit_lsbFirst_top _ t
    | succ n =>
      rw [getLsbD_packBit_lsbFirst_of_lt _ t (by omega), show 1 + (7 - (n + 1)) = 7 - n by omega, ih (by omega)]
      rfl

/-- Counted from its end, the reversed group reads as the group. -/
theorem getD_reverse_of_lt {g : List Bool} {i : Nat} (hi : i < g.length) :
    g.reverse.getD (g.length - 1 - i) false = g.getD i false := by
  rw [List.getD_reverse _ (by omega), Nat.sub_sub_self (by omega)]

section
variable {g : List Bool} {i n : Nat} (hg : g.length ≤ 8)
include hg

/-- Under `MSB_FIRST` pixel `i` of `k` is at bit `k - 1 - i` (rule R159). -/
theorem getLsbD_packGroup_msbFirst_of_lt (hi : i < g.length) :
    (packGroup .msbFirst g).getLsbD (g.length - 1 - i) = g.getD i false := by
  rw [getLsbD_packGroup_msbFirst g (by omega), getD_reverse_of_lt hi]

/-- Under `LSB_FIRST` pixel `i` of `k` is at bit `8 - k + i` (rule R157). -/
theorem getLsbD_packGroup_lsbFirst_of_lt (hi : i < g.length) :
    (packGroup .lsbFirst g).getLsbD (8 - g.length + i) = g.getD i false := by
  rw [show 8 - g.length + i = 7 - (g.length - 1 - i) by omega, getLsbD_packGroup_lsbFirst g (by omega), getD_reverse_of_lt hi]

/-- Under `LSB_FIRST` the bits below a partly filled group are 0. -/
theorem getLsbD_packGroup_lsbFirst_of_gt (hn : n < 8 - g.length) : (packGroup .lsbFirst g).getLsbD n = false := by
  rw [show n = 7 - (7 - n) by omega, getLsbD_packGroup_lsbFirst g (by omega),
    List.getD_eq_default _ _ (by rw [List.length_reverse]; omega)]

end

/-- Under `MSB_FIRST` the bits above a partly filled group are 0. -/
theorem getLsbD_packGroup_msbFirst_of_le {g : List Bool} {n : Nat} (hn : g.length ≤ n) :
    (packGroup .msbFirst g).getLsbD n = false := by
  rcases Nat.lt_or_ge n 8 with h8 | h8
  · rw [getLsbD_packGroup_msbFirst g h8, List.getD_eq_default _ _ (by rwa [List.length_reverse])]
  · exact BitVec.getLsbD_of_ge _ _ h8

/-- Under `MSB_FIRST` a pixel is added to twice the earlier value, which fits while the value is below 128. -/
theorem toNat_packBit_msbFirst {acc : Byte} (h : acc.toNat < 128) (t : Bool) :
    (packBit .msbFirst acc t).toNat = 2 * acc.toNat + t.toNat := by
  have ht := t.toNat_le
  rw [packBit_msbFirst, BitVec.toNat_setWidth, BitVec.toNat_concat]
  omega

/-- The value of a group at weights `2^(k-1-i)`. -/
def groupValue (g : List Bool) : Nat := ((List.range g.length).map fun i => (g.getD i false).toNat * 2 ^ (g.length - 1 - i)).sum

/-- One more pixel doubles the weight of the earlier ones. -/
theorem groupValue_concat (g : List Bool) (t : Bool) : groupValue (g ++ [t]) = 2 * groupValue g + t.toNat := by
  have hterm : ∀ i ∈ List.range g.length, ((g ++ [t]).getD i false).toNat * 2 ^ (g.length - i) =
      2 * ((g.getD i false).toNat * 2 ^ (g.length - 1 - i)) := by
    intro i hi
    have hi := List.mem_range.mp hi
    rw [List.getD_append _ _ _ _ hi, show g.length - i = g.length - 1 - i + 1 by omega, Nat.pow_succ]
    ring
  rw [groupValue, List.length_append, List.length_singleton, List.range_succ]
  simp only [Nat.add_sub_cancel, List.map_append, List.sum_append, List.map_congr_left hterm, List.sum_map_mul_left]
  simp [groupValue]

theorem groupValue_lt (g : List Bool) : groupValue g < 2 ^ g.length := by
  induction g using List.reverseRecOn with
  | nil => simp [groupValue]
  | append_singleton g t ih =>
    have ht := t.toNat_le
    rw [groupValue_concat, List.length_append, List.length_singleton, Nat.pow_succ]
    omega

/-- Under `MSB_FIRST` a group of at most eight packs to its value. -/
theorem toNat_packGroup_msbFirst {g : List Bool} (h : g.length ≤ 8) : (packGroup .msbFirst g).toNat = groupValue g := by
  induction g using List.reverseRecOn with
  | nil => rfl
  | append_singleton g t ih =>
    rw [List.length_append, List.length_singleton] at h
    have ih := ih (by omega)
    have hlt : groupValue g < 2 ^ 7 := (groupValue_lt g).trans_le (Nat.pow_le_pow_right (by omega) (by omega))
    rw [packGroup_concat, toNat_packBit_msbFirst (by omega), groupValue_concat, ih]

/-! ### A row, group by group (rules R152, R154, R155) -/

/-- The bits of group `j` of a row: eight, or fewer at the end of the row. -/
def rowGroup (bits : List Bool) (j : Nat) : List Bool := (bits.drop (8 * j)).take 8

theorem length_rowGroup (bits : List Bool) (j : Nat) : (rowGroup bits j).length = min 8 (bits.length - 8 * j) := by
  rw [rowGroup, List.length_take, List.length_drop]

theorem getD_rowGroup (bits : List Bool) (j : Nat) {i : Nat} (h : i < 8) :
    (rowGroup bits j).getD i false = bits.getD (8 * j + i) false := by
  simp [rowGroup, List.getD_eq_getElem?_getD, h]

/-- A pixel at the end of the row leaves the full groups. -/
theorem rowGroup_concat_of_full {bits : List Bool} {j : Nat} (h : 8 * j + 8 ≤ bits.length) (t : Bool) :
    rowGroup (bits ++ [t]) j = rowGroup bits j := by
  rw [rowGroup, List.drop_append_of_le_length (by omega), List.take_append_of_le_length (by rw [List.length_drop]; omega),
    rowGroup]

/-- A pixel at the end of the row joins the group that is not full. -/
theorem rowGroup_concat_of_open (bits : List Bool) (t : Bool) :
    rowGroup (bits ++ [t]) (bits.length / 8) = rowGroup bits (bits.length / 8) ++ [t] := by
  rw [rowGroup, List.drop_append_of_le_length (by omega), List.take_of_length_le (by simp; omega), rowGroup,
    List.take_of_length_le (by simp; omega)]

theorem rowGroup_of_le {bits : List Bool} {j : Nat} (h : bits.length ≤ 8 * j) : rowGroup bits j = [] := by
  rw [rowGroup, List.drop_of_length_le h, List.take_nil]

/-- The first `n` packed bytes of a row. -/
def packedBytes (o : PackOrder) (bits : List Bool) (n : Nat) : List Byte :=
  (List.range n).map fun j => packGroup o (rowGroup bits j)

theorem packedBytes_succ (o : PackOrder) (bits : List Bool) (n : Nat) :
    packedBytes o bits (n + 1) = packedBytes o bits n ++ [packGroup o (rowGroup bits n)] := by
  simp [packedBytes, List.range_succ]

theorem packedBytes_concat (o : PackOrder) (bits : List Bool) (t : Bool) :
    packedBytes o (bits ++ [t]) (bits.length / 8) = packedBytes o bits (bits.length / 8) := by
  refine List.map_congr_left fun j hj => ?_
  have hj := List.mem_range.mp hj
  rw [rowGroup_concat_of_full (by omega)]

/-- The loop has emitted the bytes of the full groups and holds the open group. -/
theorem packLoop_eq (o : PackOrder) (bits : List Bool) : packLoop o bits =
    { acc := packGroup o (rowGroup bits (bits.length / 8)), nb := BitVec.ofNat 4 (bits.length % 8),
      out := packedBytes o bits (bits.length / 8) } := by
  induction bits using List.reverseRecOn with
  | nil => rfl
  | append_singleton bits t ih =>
    have hacc : packBit o (packGroup o (rowGroup bits (bits.length / 8))) t =
        packGroup o (rowGroup (bits ++ [t]) (bits.length / 8)) := by
      rw [rowGroup_concat_of_open, packGroup_concat]
    have hnb : BitVec.ofNat 4 (bits.length % 8) + 1#4 = Params.pixelsPerByte ↔ bits.length % 8 = 7 := by
      rw [← BitVec.toNat_inj]
      simp [Params.pixelsPerByte]
      omega
    rw [packLoop_concat, ih, packPixel, hacc, ← packedBytes_concat o bits t, List.length_append, List.length_singleton]
    split
    · next h =>
      have h7 := hnb.mp h
      have hempty : rowGroup (bits ++ [t]) (bits.length / 8 + 1) = [] := rowGroup_of_le (by simp; omega)
      rw [show (bits.length + 1) / 8 = bits.length / 8 + 1 by omega, show (bits.length + 1) % 8 = 0 by omega,
        hempty, packedBytes_succ]
      rfl
    · next h =>
      have h7 := mt hnb.mpr h
      rw [show (bits.length + 1) / 8 = bits.length / 8 by omega, show (bits.length + 1) % 8 = bits.length % 8 + 1 by omega,
        BitVec.ofNat_add]

/-- A row packs to the bytes of its groups, the open one too. -/
theorem packRow_eq (o : PackOrder) (px : List Word) :
    packRow o px = packedBytes o (px.map paintedWord) ((px.length + 7) / 8) := by
  rw [packRow, PackRun.finish_out, packLoop_eq, List.length_map, ← packedBytes_succ]
  by_cases h : px.length % 8 = 0
  · rw [if_pos (by rw [h]), show (px.length + 7) / 8 = px.length / 8 by omega]
  · rw [if_neg (by bv_omega), show (px.length + 7) / 8 = px.length / 8 + 1 by omega]

theorem length_packRow (o : PackOrder) (px : List Word) : (packRow o px).length = (px.length + 7) / 8 := by
  rw [packRow_eq, packedBytes, List.length_map, List.length_range]

/-- The bits of group `j` of a row of pixel words. -/
def pixelGroup (px : List Word) (j : Nat) : List Bool := rowGroup (px.map paintedWord) j

theorem length_pixelGroup (px : List Word) (j : Nat) : (pixelGroup px j).length = min 8 (px.length - 8 * j) := by
  rw [pixelGroup, length_rowGroup, List.length_map]

theorem getD_pixelGroup (px : List Word) (j : Nat) {i : Nat} (h : i < 8) :
    (pixelGroup px j).getD i false = paintedWord (px.getD (8 * j + i) 0#32) :=
  (getD_rowGroup _ j h).trans (List.getD_map px 0#32 paintedWord)

/-- The byte at place `j` of a row is the packed group `j`. -/
theorem eq_packGroup_of_packRow_getElem? {o : PackOrder} {px : List Word} {j : Nat} {b : Byte}
    (h : (packRow o px)[j]? = some b) : b = packGroup o (pixelGroup px j) := by
  rw [packRow_eq, packedBytes, List.getElem?_map, Option.map_eq_some_iff] at h
  obtain ⟨i, hi, rfl⟩ := h
  obtain ⟨_, rfl⟩ := List.getElem?_eq_some_iff.mp hi
  rw [List.getElem_range]
  rfl

/-- The pixels an operand takes from the port are the first of the port. -/
theorem State.getD_pinOperand (s : State) {len : Count} {m : Nat} (h : m < len.toNat) :
    (s.pinOperand len).getD m 0#32 = s.offered.pin.getD m 0#32 := by
  simp [State.pinOperand, h]

/-! ### What PACK answers (rule R156) -/

/-- PACK with its pixels there, on this hardware. -/
theorem exec_pack_of_supplied {len : Count} {s : State} (h : len.toNat ≤ s.offered.pin.length) (cmd : Byte) :
    exec (.pack cmd len) s =
      .next (((((s.accept cmd len).consumePin len).setPacker 0x00#8 0#4 len).emit
        (packRow .msbFirst (s.pinOperand len))).respond .ok) := execPack_of_supplied_cleared h cmd

/-- PACK emits the row and answers OK. -/
theorem exec_pack_emits {len : Count} {s : State} (h : len.toNat ≤ s.offered.pin.length) (cmd : Byte) :
    ∃ t, exec (.pack cmd len) s = .next t ∧ t.dout = s.dout ++ markLast (packRow .msbFirst (s.pinOperand len)) :=
  ⟨_, exec_pack_of_supplied h cmd, rfl⟩

/-- Settles O25: PACK's equation, with byte `j` of its row the packed group `j`, whose value and bits are those of its pixels. -/
theorem packClosedForm : Obligations.PackClosedForm := by
  intro cmd len s h
  have hpx : (s.pinOperand len).length = len.toNat := State.length_pinOperand h
  refine ⟨_, packRow .msbFirst (s.pinOperand len), exec_pack_of_supplied h cmd, by simp,
    by simp [State.withoutWorking], by rw [length_packRow, hpx], ?_⟩
  intro j k b hb hk
  have hlen : (pixelGroup (s.pinOperand len) j).length = k := by rw [length_pixelGroup, hpx, hk]
  have hbit : ∀ i < k, (pixelGroup (s.pinOperand len) j).getD i false = paintedWord (s.offered.pin.getD (8 * j + i) 0#32) := by
    intro i hi
    rw [getD_pixelGroup _ j (by omega), State.getD_pinOperand s (by omega)]
  rw [eq_packGroup_of_packRow_getElem? hb]
  refine ⟨?_, fun i hi => ?_, fun n hn => getLsbD_packGroup_msbFirst_of_le (hlen ▸ hn)⟩
  · rw [toNat_packGroup_msbFirst (by omega), groupValue, hlen]
    refine congrArg List.sum (List.map_congr_left fun i hi => ?_)
    rw [hbit i (List.mem_range.mp hi), Bool.toNat, Bool.cond_eq_ite]
  · rw [← hbit i hi, ← hlen, getLsbD_packGroup_msbFirst_of_lt (by omega) (hlen ▸ hi)]

/-- Settles O26: byte `j` of the row is the packed group `j`, whose bits are those of its pixels from bit 7 down. -/
theorem packLsbFirstClosedForm : Obligations.PackLsbFirstClosedForm := by
  refine fun px => ⟨length_packRow .lsbFirst px, fun j k b hb hk => ?_⟩
  obtain rfl : (pixelGroup px j).length = k := (length_pixelGroup px j).trans hk.symm
  have hle : (pixelGroup px j).length ≤ 8 := hk ▸ Nat.min_le_left ..
  rw [eq_packGroup_of_packRow_getElem? hb]
  exact ⟨fun i hi => (getLsbD_packGroup_lsbFirst_of_lt hle hi).trans (getD_pixelGroup px j (hi.trans_le hle)),
    fun n hn => getLsbD_packGroup_lsbFirst_of_gt hle hn⟩

/-! ### Uniform rows (95_test_vectors.md section 4) -/

/-- In a row of equal bits group `j` is that bit repeated. -/
theorem pixelGroup_of_uniform {px : List Word} {t : Bool} (h : ∀ w ∈ px, paintedWord w = t) (j : Nat) :
    pixelGroup px j = List.replicate (min 8 (px.length - 8 * j)) t := by
  rw [← length_pixelGroup]
  refine List.eq_replicate_of_mem fun b hb => ?_
  obtain ⟨w, hw, rfl⟩ := List.mem_map.mp (List.mem_of_mem_drop (List.mem_of_mem_take hb))
  exact h w hw

theorem packRow_eq_replicate {o : PackOrder} {px : List Word} {b : Byte}
    (h : ∀ j < (px.length + 7) / 8, packGroup o (pixelGroup px j) = b) :
    packRow o px = List.replicate ((px.length + 7) / 8) b := by
  rw [packRow_eq, packedBytes]
  refine (List.map_congr_left fun j hj => h j (List.mem_range.mp hj)).trans ?_
  rw [List.map_const', List.length_range]

/-- Pixels that are not painted leave the byte 0x00. -/
theorem packGroup_replicate_false (k : Nat) : packGroup .msbFirst (List.replicate k false) = 0x00#8 := by
  induction k with
  | zero => rfl
  | succ k ih =>
    rw [List.replicate_succ', packGroup_concat, ih]
    rfl

/-- A row with no painted pixel packs to zero bytes, a partly filled last one too. -/
theorem packRow_of_none_painted {px : List Word} (h : ∀ w ∈ px, paintedWord w = false) :
    packRow .msbFirst px = List.replicate ((px.length + 7) / 8) 0x00#8 := by
  refine packRow_eq_replicate fun j _ => ?_
  rw [pixelGroup_of_uniform h, packGroup_replicate_false]

/-- A row of full groups with every pixel painted packs to 0xFF bytes. -/
theorem packRow_of_all_painted {px : List Word} (hfull : px.length % 8 = 0) (h : ∀ w ∈ px, paintedWord w = true) :
    packRow .msbFirst px = List.replicate ((px.length + 7) / 8) 0xFF#8 := by
  refine packRow_eq_replicate fun j hj => ?_
  rw [pixelGroup_of_uniform h, show min 8 (px.length - 8 * j) = 8 by omega]
  rfl

/-- Settles O27: PACK emits the row of its pixels, which is uniform in both cases. -/
theorem packUniformRows : Obligations.PackUniformRows := by
  intro cmd len s h
  have hpx : (s.pinOperand len).length = len.toNat := State.length_pinOperand h
  obtain ⟨t, ht, hdout⟩ := exec_pack_emits h cmd
  refine ⟨t, ht, fun hnone => ?_, fun hfull hall => ?_⟩ <;> rw [hdout, List.map_append, markLast_bytes]
  · rw [packRow_of_none_painted (px := s.pinOperand len) hnone, hpx]
  · rw [packRow_of_all_painted (px := s.pinOperand len) (hpx.symm ▸ hfull) hall, hpx,
      show (len.toNat + 7) / 8 = len.toNat / 8 by omega]

/-! ### The row handed to DRAW, and what PACK leaves unchanged (rules R128, R156, R160) -/

/-- DRAW of exactly the bytes offered emits the frame of those bytes (rule R128). -/
theorem exec_draw_of_offered {u : State} (h : u.offered.din.length ≤ 255) :
    ∃ v, exec (.draw (BitVec.ofNat 16 u.offered.din.length)) u = .next v ∧
      v.dout.map OutByte.byte = u.dout.map OutByte.byte ++
        frameBytes 0xA2#8 (BitVec.ofNat 8 u.offered.din.length) u.offered.din (checksum u.table u.offered.din) ∧
      v.rsp = u.rsp ++ [.ok] := by
  have hlen : (BitVec.ofNat 16 u.offered.din.length : Count).toNat = u.offered.din.length := by
    rw [BitVec.toNat_ofNat]; omega
  have hpayload : u.dinOperand (BitVec.ofNat 16 u.offered.din.length) = u.offered.din := by
    rw [State.dinOperand, hlen, List.take_length]
  have hbyte := u.ofNat_length_dinOperand hlen.le
  refine ⟨_, exec_frame_of_supplied (i := .draw _) rfl (by omega) hlen.le, ?_, by simp⟩
  rw [← hbyte, hpayload]
  simp

/-- Settles O28: the bytes offered to DRAW are the row, which has the announced length. -/
theorem packedRowDraws : Obligations.PackedRowDraws := by
  intro cmd width s t u hwidth h ht hdin
  obtain ⟨t', ht', hdout⟩ := exec_pack_emits h cmd
  obtain rfl : t = t' := Host.Outcome.next.inj (ht.symm.trans ht')
  have hrow : u.offered.din.length = (width.toNat + 7) / 8 := by
    rw [hdin, hdout, List.drop_left, markLast_bytes, length_packRow, State.length_pinOperand h]
  obtain ⟨v, hv, hvdout, hvrsp⟩ := exec_draw_of_offered (u := u) (by omega)
  rw [hrow] at hv hvdout
  refine ⟨v, hv, hvdout.trans ?_, hvrsp⟩
  simp [frameBytes, Params.sof1, Params.sof2, Params.reserved, Params.reserved2, Params.eof]

/-- Settles O30: PACK waits or completes, and neither writes `TABLE`, a flag or a register of another unit. -/
theorem packLeavesTheRest : Obligations.PackLeavesTheRest := by
  intro cmd len s t hst
  rcases execPack_cases cmd len s with ⟨_, he⟩ | ⟨_, run, _, he⟩ <;>
    obtain rfl := Host.Outcome.next.inj (hst.symm.trans he)
  · simp
  · simp

end Sys2Proof.Machine
end

section
/-! PROOFS of the family 60_exceptions.md. First which words are legal, in terms of the decoder; then everything a step can do with
the oldest request, by its word, its length and its input; then each statement, read off from that. -/

namespace Sys2Proof.Machine

/-! ### Legal, oversize and supplied requests, by the fields of the word (rules R72, R181, R182) -/

@[simp] theorem legalWord_requestWord {op : BitVec 3} {cmd : Byte} {len : Count} :
    LegalWord (requestWord op cmd len) ↔ op.toNat < 4 := by
  simp [LegalWord]

@[simp] theorem oversizeWord_requestWord {op : BitVec 3} {cmd : Byte} {len : Count} :
    OversizeWord (requestWord op cmd len) ↔ op = 2#3 ∧ 255 < len.toNat := by
  rw [OversizeWord, legalWord_requestWord, reqOp_requestWord, reqLen_requestWord]
  exact and_iff_right_of_imp fun ⟨hop, _⟩ => by rw [hop]; decide

@[simp] theorem supplied_requestWord {op : BitVec 3} {cmd : Byte} {len : Count} {din : List Byte} {pin : List Word} :
    Request.Supplied { word := requestWord op cmd len, din, pin } ↔
      (op = 1#3 ∨ op = 2#3 → len.toNat ≤ din.length) ∧ (op = 3#3 → len.toNat ≤ pin.length) := by
  rw [Request.Supplied, reqOp_requestWord, reqLen_requestWord]

theorem not_legalWord_iff {w : Word} : ¬ LegalWord w ↔ 4 ≤ (reqOp w).toNat ∨ reqRsv w ≠ 0#5 := by
  rw [LegalWord, not_and_or, Nat.not_lt]

/-- The legal words are those that select an operation (rule R182). -/
theorem legalWord_iff_decode {w : Word} : LegalWord w ↔ ∃ i, decode w = .ok i := by
  constructor
  · rintro ⟨hop, hrsv⟩
    rw [← requestWord_fields w hrsv]
    have hops : reqOp w = 0#3 ∨ reqOp w = 1#3 ∨ reqOp w = 2#3 ∨ reqOp w = 3#3 := by bv_omega
    rcases hops with h | h | h | h <;> rw [h]
    · exact ⟨_, decode_requestWord_tgen _ _⟩
    · exact ⟨_, decode_requestWord_crc8 _ _⟩
    · exact ⟨_, decode_requestWord_frame _ _⟩
    · exact ⟨_, decode_requestWord_pack _ _⟩
  · rintro ⟨i, hi⟩
    obtain ⟨cmd, len, ⟨rfl, _⟩ | ⟨rfl, _⟩ | ⟨rfl, _⟩ | ⟨rfl, _⟩⟩ := requestWord_of_decode hi <;>
      exact legalWord_requestWord.mpr (by decide)

/-! ### What a step can do with the oldest request (rules R182, R184, R186) -/

/-- From `s` to `t` the oldest request was answered `OK`, and no flag changed (rules R30, R83). -/
structure State.Completes (s t : State) : Prop where
  pending : t.pending = s.pending.tail
  rsp : t.rsp = s.rsp ++ [.ok]
  errPsize : t.errPsize = s.errPsize
  errOp : t.errOp = s.errOp

section
variable {s : State} {r : Request} {rs : List Request} (hacc : s.Accepting) (hp : s.pending = r :: rs)
include hacc hp

theorem step_of_not_legal (h : ¬ LegalWord r.word) : step s = .next (s.takeIllegal r.word) := by
  cases hd : decode r.word with
  | ok i => exact absurd (legalWord_iff_decode.mpr ⟨i, hd⟩) h
  | error _ => exact step_of_illegal hacc hp hd

/-- On a legal word a step faults on an oversize payload, waits for its input, or completes. -/
theorem step_of_legal (h : LegalWord r.word) :
    (OversizeWord r.word ∧ ∃ cmd len, step s = .next ((s.accept cmd len).raise .invalidPayloadSize)) ∨
    (¬ OversizeWord r.word ∧ ¬ r.Supplied ∧ step s = .next s) ∨
    (¬ OversizeWord r.word ∧ r.Supplied ∧ ∃ t, step s = .next t ∧ s.Completes t) := by
  obtain ⟨i, hi⟩ := legalWord_iff_decode.mp h
  rw [stepRunsDecodedRequest s r rs i hacc hp hi]
  have hoff := State.offered_of_pending hp
  obtain ⟨w, din, pin⟩ := r
  obtain ⟨cmd, len, ⟨rfl, rfl⟩ | ⟨rfl, rfl⟩ | ⟨rfl, rfl⟩ | ⟨rfl, rfl⟩⟩ := requestWord_of_decode hi
  · exact .inr (.inr ⟨by simp, by simp, _, rfl, rfl, rfl, rfl, rfl⟩)
  · rcases execCrc8_cases cmd len s with ⟨hin, he⟩ | ⟨hin, he⟩ <;> rw [hoff] at hin
    · exact .inr (.inl ⟨by simp, by simpa using hin, he⟩)
    · exact .inr (.inr ⟨by simp, by simpa using hin, _, he, rfl, rfl, rfl, rfl⟩)
  · rw [exec_of_frameOf (decodeFrame_spec cmd len).2]
    rcases encodeFrame_cases cmd len s with ⟨hlt, he⟩ | ⟨hle, hin, he⟩ | ⟨hle, hin, he⟩
    · exact .inl ⟨by simpa using hlt, cmd, len, he⟩
    · rw [hoff] at hin
      exact .inr (.inl ⟨by simpa using hle, by simpa using hin, he⟩)
    · rw [hoff] at hin
      exact .inr (.inr ⟨by simpa using hle, by simpa using hin, _, he, rfl, rfl, rfl, rfl⟩)
  · rcases execPack_cases cmd len s with ⟨hin, he⟩ | ⟨hin, _, _, he⟩ <;> rw [hoff] at hin
    · exact .inr (.inl ⟨by simp, by simpa using hin, he⟩)
    · exact .inr (.inr ⟨by simp, by simpa using hin, _, he, rfl, rfl, rfl, rfl⟩)

end

/-! ### The statements -/

/-- Settles O7: an illegal word faults, and no case of a legal word sets `ERR_OP` or responds with its fault. -/
theorem illegalOperationRaisedExactly : Obligations.IllegalOperationRaisedExactly := by
  intro s r rs hacc hp
  rw [← not_legalWord_iff, not_not]
  refine ⟨fun hill => ⟨_, step_of_not_legal hacc hp hill, ?_⟩,
    fun hlegal => ⟨legalWord_iff_decode.mp hlegal, fun t hst => ?_⟩⟩
  · have htail : s.pending.tail = rs := by rw [hp, List.tail_cons]
    rw [← htail, ← State.offered_of_pending hp]
    rfl
  · rcases step_of_legal hacc hp hlegal with ⟨_, _, _, h⟩ | ⟨_, _, h⟩ | ⟨_, _, u, h, hdone⟩ <;>
      obtain rfl := Host.Outcome.next.inj (hst.symm.trans h)
    · simp [BlockFault.setsOp, BlockFault.response]
    · simp
    · simp [hdone.errOp, hdone.rsp]

/-- Settles O8: the word is checked before the length, and a supplied request that is legal and not oversize completes. -/
theorem faultPriority : Obligations.FaultPriority := by
  intro s r rs hacc hp
  have htail : s.pending.tail = rs := by rw [hp, List.tail_cons]
  refine ⟨fun hill => ?_, fun hlegal hop hlen => ?_, fun hlegal hsize hin => ?_⟩
  · exact ⟨_, step_of_not_legal hacc hp hill, htail, List.map_append, rfl, rfl⟩
  · rcases step_of_legal hacc hp hlegal with ⟨_, _, _, h⟩ | ⟨hsize, _⟩ | ⟨hsize, _⟩
    · exact ⟨_, h, htail, List.map_append, rfl, rfl⟩
    · exact absurd ⟨hlegal, hop, hlen⟩ hsize
    · exact absurd ⟨hlegal, hop, hlen⟩ hsize
  · rcases step_of_legal hacc hp hlegal with ⟨⟨_, hover⟩, _⟩ | ⟨_, hshort, _⟩ | ⟨_, _, t, h, hdone⟩
    · exact absurd hover hsize
    · exact absurd hin hshort
    · exact ⟨t, h, hdone.pending.trans htail, by rw [hdone.rsp, List.map_append]; rfl, hdone.errPsize, hdone.errOp⟩

/-- Settles O9: the length is checked before the input, and within the limit the request waits or completes. -/
theorem oversizePayloadFaults : Obligations.OversizePayloadFaults := by
  intro i cmd len s hf
  rw [exec_of_frameOf hf]
  refine ⟨fun hlen => ⟨_, encodeFrame_of_oversize hlen cmd s, rfl⟩, fun hle t hst => ?_⟩
  rcases encodeFrame_cases cmd len s with ⟨hlt, _⟩ | ⟨_, _, he⟩ | ⟨_, _, he⟩
  · exact absurd hle (Nat.not_le_of_lt hlt)
  · obtain rfl := Host.Outcome.next.inj (hst.symm.trans he)
    simp
  · obtain rfl := Host.Outcome.next.inj (hst.symm.trans he)
    simp

end Sys2Proof.Machine
end

section
/-! PROOFS of the family 70_reset_and_hazards.md. First the reset sequence; then that nothing is stuck and what a dutiful host sees,
both read off from what a step can do with the oldest request; then the width limit of DRAW. -/

namespace Sys2Proof.Machine

/-! ### The reset sequence (rules R210, R211) -/

/-- Settles O35: taking a reset looks at `PH` before anything is cleared (log entry 8). -/
theorem resetMidFrameRefused : Obligations.ResetMidFrameRefused := by
  intro s hrst hph
  rw [step, if_pos hrst, State.takeReset, if_neg hph]

/-- Over a canonical table the two parts of a reset leave the state after reset: the first clears the ports and the flags, and the
second makes any canonical table the one that lists nothing (rule R35). -/
theorem State.finishReset_assertReset {s : State} (hwf : s.table.wf = true) :
    s.assertReset.finishReset = { State.reset with draws := s.draws + 1 } := by
  have htable : s.assertReset.table.generate = [] := Memory.generate_eq_nil (Memory.wf_unspecified s.draws hwf)
  rw [State.finishReset, htable]
  rfl

/-- Settles O33: the two steps are the two parts of a reset. -/
theorem resetSequenceEndsInResetState : Obligations.ResetSequenceEndsInResetState := by
  intro s hrst hph hwf
  refine ⟨s.assertReset, step_of_rst hrst hph, rfl, rfl, rfl, rfl, rfl, rfl, ?_⟩
  calc step s.assertReset = .next s.assertReset.finishReset := step_of_not_ready rfl rfl
    _ = .next { State.reset with draws := s.draws + 1 } := by rw [State.finishReset_assertReset hwf]

/-! ### Nothing is stuck (rule R231) -/

theorem exists_next_of_exec (i : Instr) (s : State) : ∃ t, exec i s = .next t := by
  obtain ⟨e, _, hexec⟩ := exec_effect i s
  exact ⟨e s, hexec s rfl fun _ => rfl⟩

/-- Only a reset requested inside a frame has no next state. -/
theorem exists_next_of_step {s : State} (hph : s.ph = .done) : ∃ t, step s = .next t := by
  cases hrst : s.rst with
  | true => exact ⟨_, step_of_rst hrst hph⟩
  | false =>
    obtain ⟨e, _, hstep⟩ := step_effect hrst
    exact ⟨e s, hstep s (.refl s)⟩

/-- A request that faults, or has the input it announces, is taken and answered in one step (rules R184, R231). -/
theorem step_answers_of_supplied {s : State} {r : Request} {rs : List Request} (hacc : s.Accepting)
    (hp : s.pending = r :: rs) (hin : r.Dutiful → r.Supplied) :
    ∃ (t : State) (a : Rsp), step s = .next t ∧ t.pending = rs ∧ t.rsp = s.rsp ++ [a] := by
  have htail : s.pending.tail = rs := by rw [hp, List.tail_cons]
  by_cases hlegal : LegalWord r.word
  · rcases step_of_legal hacc hp hlegal with ⟨_, _, _, h⟩ | ⟨hsize, hshort, _⟩ | ⟨_, _, t, h, hdone⟩
    · exact ⟨_, _, h, htail, rfl⟩
    · exact absurd (hin ⟨hlegal, hsize⟩) hshort
    · exact ⟨t, .ok, h, hdone.pending.trans htail, hdone.rsp⟩
  · exact ⟨_, _, step_of_not_legal hacc hp hlegal, htail, rfl⟩

/-- Settles O38: an operation and a step each make one of the listed updates, and only short input makes it the waiting one (log
entries 5 and 9). -/
theorem nothingIsStuck : Obligations.NothingIsStuck :=
  ⟨exists_next_of_exec, fun _ ⟨_, hph, _⟩ => exists_next_of_step hph, fun _ _ _ => step_answers_of_supplied⟩

/-! ### A dutiful host (rules R180, R220) -/

/-- Settles O44: the only updates that set a flag are the two faults, each on a request that is not dutiful, and a step adds no
request to the queue. -/
theorem dutifulHostSeesNoFault : Obligations.DutifulHostSeesNoFault := by
  intro s t hrst hduty hst
  have next_of_step {u : State} (h : step s = .next u) : t = u := Host.Outcome.next.inj (hst.symm.trans h)
  cases hready : s.ready with
  | false =>
    obtain rfl := next_of_step (step_of_not_ready hrst hready)
    exact ⟨rfl, rfl, hduty⟩
  | true =>
    cases hp : s.pending with
    | nil =>
      obtain rfl := next_of_step (idleWithoutRequest s ⟨hrst, hready⟩ hp)
      exact ⟨rfl, rfl, hduty⟩
    | cons r rs =>
      obtain ⟨hlegal, hsize⟩ : r.Dutiful := hduty r (hp ▸ List.mem_cons_self)
      rcases step_of_legal ⟨hrst, hready⟩ hp hlegal with ⟨hover, _⟩ | ⟨_, _, h⟩ | ⟨_, _, u, h, hdone⟩
      · exact absurd hover hsize
      · obtain rfl := next_of_step h
        exact ⟨rfl, rfl, hduty⟩
      · obtain rfl := next_of_step h
        exact ⟨hdone.errPsize, hdone.errOp, fun q hq => hduty q (List.mem_of_mem_tail (hdone.pending ▸ hq))⟩

/-! ### The width limit of DRAW (rules R128, R232) -/

/-- A row of a 16-bit width packs to a number of bytes that fits the `len` field. -/
theorem toNat_rowBytes (width : Count) :
    (BitVec.ofNat 16 ((width.toNat + 7) / 8) : Count).toNat = (width.toNat + 7) / 8 := by
  rw [BitVec.toNat_ofNat]
  exact Nat.mod_eq_of_lt (by omega)

/-- Settles O29: 2040 pixels are 255 bytes, the longest payload, and one pixel more is 256. -/
theorem drawWidthLimit : Obligations.DrawWidthLimit := by
  intro width s hin
  have hlen := toNat_rowBytes width
  rw [exec_of_frameOf (i := .draw _) rfl]
  rcases Nat.lt_or_ge 2040 width.toNat with hwide | hfits
  · exact ⟨_, encodeFrame_of_oversize (by omega) _ s, fun _ => ⟨rfl, rfl⟩, fun hle => absurd hwide (Nat.not_lt_of_le hle)⟩
  · have hsupplied := hlen.trans_le hin
    refine ⟨_, encodeFrame_of_supplied (by omega) hsupplied _, fun hlt => absurd hlt (Nat.not_lt_of_le hfits),
      fun _ => ⟨rfl, ?_⟩⟩
    simp [State.length_dinOperand hsupplied, hlen, Nat.add_assoc]

end Sys2Proof.Machine
end
